-- ==== Sys2Proof/Word.lean ====
section
/-! DEFINITION. The word types of the machine and the sizes the spec fixes (spec/00_scope.md R8, R9). -/

namespace Sys2Proof

/-- A byte: a general register, a timer, a memory cell (R8 XLEN, TIMER_BITS; R60). -/
abbrev Byte := BitVec 8

/-- A 16-bit word: an instruction, the pc, the index register, a return address (R8 ILEN, PCLEN; R90). -/
abbrev Word := BitVec 16

/-- The 12-bit immediate address `nnn` (R91). -/
abbrev Addr12 := BitVec 12

/-- The number of a general register, 0..15: the fields `x` and `y` (R20, R91). -/
abbrev Reg := Fin 16

/-- The number of a keypad slot, 0..15 (R39). -/
abbrev Key := Fin 16

/-- The size of the one memory in bytes, MEM_SIZE (R8, R60). -/
abbrev memSize : Nat := 0x1000

/-- Where the program image is loaded and where the pc starts, PROG_BASE (R8). -/
abbrev progBase : Nat := 0x200

/-- The length of the longest program image, MAX_PROG (R8, R272). -/
abbrev maxProg : Nat := 0xE00

/-- Where the font table stands, FONT_BASE (R8). -/
abbrev fontBase : Nat := 0x000

/-- The size of the font table, FONT_BYTES (R8). -/
abbrev fontBytes : Nat := 80

/-- A value of the parameter FONT: the 80 bytes Reset copies to 0x000..0x04F (R8, R75). Whatever resets the
Machine takes one as an argument. -/
abbrev Font := Vector Byte fontBytes

/-- The capacity of the call stack, STACK_DEPTH (R8, R32). -/
abbrev stackDepth : Nat := 16

end Sys2Proof
end

