-- ==== Sys2Proof/Syntax.lean ====
section
/-! DEFINITION. The instructions: one constructor for each row of spec/opcode_table.json, in the table's
order (spec/30_encoding.md R94). The type of an operand is exactly its field (R91), so every term of `Instr`
is an instruction of the hardware. -/

namespace Sys2Proof

/-- The 34 instructions (R94). `x` and `y` are register numbers, `kk` an immediate byte, `nnn` an immediate
address, `n` a count of sprite rows. -/
inductive Instr where
  | cls                              -- 00E0 CLS
  | ret                              -- 00EE RET
  | jp (nnn : Addr12)                -- 1nnn JP nnn
  | call (nnn : Addr12)              -- 2nnn CALL nnn
  | seImm (x : Reg) (kk : Byte)      -- 3xkk SE Vx, kk
  | sneImm (x : Reg) (kk : Byte)     -- 4xkk SNE Vx, kk
  | seReg (x y : Reg)                -- 5xy0 SE Vx, Vy
  | ldImm (x : Reg) (kk : Byte)      -- 6xkk LD Vx, kk
  | addImm (x : Reg) (kk : Byte)     -- 7xkk ADD Vx, kk
  | ldReg (x y : Reg)                -- 8xy0 LD Vx, Vy
  | orReg (x y : Reg)                -- 8xy1 OR Vx, Vy
  | andReg (x y : Reg)               -- 8xy2 AND Vx, Vy
  | xorReg (x y : Reg)               -- 8xy3 XOR Vx, Vy
  | addReg (x y : Reg)               -- 8xy4 ADD Vx, Vy
  | sub (x y : Reg)                  -- 8xy5 SUB Vx, Vy
  | shr (x y : Reg)                  -- 8xy6 SHR Vx; the y field is kept and ignored (R99)
  | subn (x y : Reg)                 -- 8xy7 SUBN Vx, Vy
  | shl (x y : Reg)                  -- 8xyE SHL Vx; the y field is kept and ignored (R99)
  | sneReg (x y : Reg)               -- 9xy0 SNE Vx, Vy
  | ldI (nnn : Addr12)               -- Annn LD I, nnn
  | jpV0 (nnn : Addr12)              -- Bnnn JP V0, nnn
  | rnd (x : Reg) (kk : Byte)        -- Cxkk RND Vx, kk
  | drw (x y : Reg) (n : Fin 16)     -- Dxyn DRW Vx, Vy, n
  | skp (x : Reg)                    -- Ex9E SKP Vx
  | sknp (x : Reg)                   -- ExA1 SKNP Vx
  | ldVxDt (x : Reg)                 -- Fx07 LD Vx, DT
  | ldVxK (x : Reg)                  -- Fx0A LD Vx, K
  | ldDtVx (x : Reg)                 -- Fx15 LD DT, Vx
  | ldStVx (x : Reg)                 -- Fx18 LD ST, Vx
  | addI (x : Reg)                   -- Fx1E ADD I, Vx
  | ldF (x : Reg)                    -- Fx29 LD F, Vx
  | ldB (x : Reg)                    -- Fx33 LD B, Vx
  | dump (x : Reg)                   -- Fx55 LD [I], Vx
  | load (x : Reg)                   -- Fx65 LD Vx, [I]
deriving DecidableEq, Repr

/-- Why bytes are no instruction. -/
inductive DecodeError where
  /-- The word matches no row of the table: `Invalid` of R95, executed as InvalidOpcode (R96). -/
  | invalidOpcode (w : Word)
  /-- Fewer than the two bytes every instruction has (R90). The step never meets it: fetch checks first. -/
  | truncated
deriving DecidableEq, Repr

/-- A row of the opcode table: a word `w` selects it when `w &&& mask = pattern` (R94). -/
structure OpcodeRow where
  mnemonic : String
  mask     : Word
  pattern  : Word
deriving DecidableEq, Repr

end Sys2Proof
end

