-- ==== Sys2Proof/Decode.lean ====
section
/-! DEFINITION. The decoder, the encoder, and the opcode table as data (spec/30_encoding.md R90 to R100). -/

namespace Sys2Proof

/-! ## Fields of an instruction word (R91) -/

/-- `op = w[15:12]`, the family. -/
def fieldOp (w : Word) : BitVec 4 := w.extractLsb' 12 4

/-- `x = w[11:8]`. -/
def fieldX (w : Word) : Reg := ⟨(w.extractLsb' 8 4).toNat, (w.extractLsb' 8 4).isLt⟩

/-- `y = w[7:4]`. -/
def fieldY (w : Word) : Reg := ⟨(w.extractLsb' 4 4).toNat, (w.extractLsb' 4 4).isLt⟩

/-- `n = w[3:0]`. -/
def fieldN (w : Word) : Fin 16 := ⟨(w.extractLsb' 0 4).toNat, (w.extractLsb' 0 4).isLt⟩

/-- `kk = w[7:0]`. -/
def fieldKk (w : Word) : Byte := w.extractLsb' 0 8

/-- `nnn = w[11:0]`. -/
def fieldNnn (w : Word) : Addr12 := w.extractLsb' 0 12

/-! ## Decode (R95) -/

/-- Family 8, selected by `n` (R95). -/
def decodeAlu (w : Word) : Except DecodeError Instr :=
  match (fieldN w).val with
  | 0x0 => .ok (.ldReg (fieldX w) (fieldY w))
  | 0x1 => .ok (.orReg (fieldX w) (fieldY w))
  | 0x2 => .ok (.andReg (fieldX w) (fieldY w))
  | 0x3 => .ok (.xorReg (fieldX w) (fieldY w))
  | 0x4 => .ok (.addReg (fieldX w) (fieldY w))
  | 0x5 => .ok (.sub (fieldX w) (fieldY w))
  | 0x6 => .ok (.shr (fieldX w) (fieldY w))
  | 0x7 => .ok (.subn (fieldX w) (fieldY w))
  | 0xE => .ok (.shl (fieldX w) (fieldY w))
  | _ => .error (.invalidOpcode w)

/-- Family F, selected by `kk` (R95). -/
def decodeF (w : Word) : Except DecodeError Instr :=
  match (fieldKk w).toNat with
  | 0x07 => .ok (.ldVxDt (fieldX w))
  | 0x0A => .ok (.ldVxK (fieldX w))
  | 0x15 => .ok (.ldDtVx (fieldX w))
  | 0x18 => .ok (.ldStVx (fieldX w))
  | 0x1E => .ok (.addI (fieldX w))
  | 0x29 => .ok (.ldF (fieldX w))
  | 0x33 => .ok (.ldB (fieldX w))
  | 0x55 => .ok (.dump (fieldX w))
  | 0x65 => .ok (.load (fieldX w))
  | _ => .error (.invalidOpcode w)

/-- `decode(w)` of R95. A word of no instruction is refused by name, with the word (R96 to R99). -/
def decode (w : Word) : Except DecodeError Instr :=
  match (fieldOp w).toNat with
  | 0x0 =>
    if w = 0x00E0#16 then .ok .cls
    else if w = 0x00EE#16 then .ok .ret
    else .error (.invalidOpcode w)
  | 0x1 => .ok (.jp (fieldNnn w))
  | 0x2 => .ok (.call (fieldNnn w))
  | 0x3 => .ok (.seImm (fieldX w) (fieldKk w))
  | 0x4 => .ok (.sneImm (fieldX w) (fieldKk w))
  | 0x5 => if (fieldN w).val = 0 then .ok (.seReg (fieldX w) (fieldY w)) else .error (.invalidOpcode w)
  | 0x6 => .ok (.ldImm (fieldX w) (fieldKk w))
  | 0x7 => .ok (.addImm (fieldX w) (fieldKk w))
  | 0x8 => decodeAlu w
  | 0x9 => if (fieldN w).val = 0 then .ok (.sneReg (fieldX w) (fieldY w)) else .error (.invalidOpcode w)
  | 0xA => .ok (.ldI (fieldNnn w))
  | 0xB => .ok (.jpV0 (fieldNnn w))
  | 0xC => .ok (.rnd (fieldX w) (fieldKk w))
  | 0xD => .ok (.drw (fieldX w) (fieldY w) (fieldN w))
  | 0xE =>
    if (fieldKk w).toNat = 0x9E then .ok (.skp (fieldX w))
    else if (fieldKk w).toNat = 0xA1 then .ok (.sknp (fieldX w))
    else .error (.invalidOpcode w)
  | _ => decodeF w   -- 0xF, the one value of four bits that is left

/-- The word of two bytes in memory order: the byte at the lower address is bits 15..8 (R64). -/
def wordOfBytes (hi lo : Byte) : Word := hi ++ lo

/-- The instruction at the head of a sequence of bytes, and the bytes after it (R90). -/
def decodeBytes : List Byte → Except DecodeError (Instr × List Byte)
  | hi :: lo :: rest =>
    match decode (wordOfBytes hi lo) with
    | .ok i => .ok (i, rest)
    | .error e => .error e
  | _ => .error .truncated

/-! ## Encode (R92, R94) -/

/-- Format NNN: op(4) nnn(12). -/
def packNnn (op : BitVec 4) (nnn : Addr12) : Word := op ++ nnn

/-- Formats XKK and X: op(4) x(4) kk(8). -/
def packXkk (op : BitVec 4) (x : Reg) (kk : Byte) : Word := op ++ BitVec.ofNat 4 x.val ++ kk

/-- Formats XY and XYN: op(4) x(4) y(4) n(4). -/
def packXyn (op : BitVec 4) (x y : Reg) (n : BitVec 4) : Word :=
  op ++ BitVec.ofNat 4 x.val ++ BitVec.ofNat 4 y.val ++ n

/-- The word of an instruction, from the patterns of R94. -/
def encode : Instr → Word
  | .cls => 0x00E0#16
  | .ret => 0x00EE#16
  | .jp nnn => packNnn 0x1#4 nnn
  | .call nnn => packNnn 0x2#4 nnn
  | .seImm x kk => packXkk 0x3#4 x kk
  | .sneImm x kk => packXkk 0x4#4 x kk
  | .seReg x y => packXyn 0x5#4 x y 0x0#4
  | .ldImm x kk => packXkk 0x6#4 x kk
  | .addImm x kk => packXkk 0x7#4 x kk
  | .ldReg x y => packXyn 0x8#4 x y 0x0#4
  | .orReg x y => packXyn 0x8#4 x y 0x1#4
  | .andReg x y => packXyn 0x8#4 x y 0x2#4
  | .xorReg x y => packXyn 0x8#4 x y 0x3#4
  | .addReg x y => packXyn 0x8#4 x y 0x4#4
  | .sub x y => packXyn 0x8#4 x y 0x5#4
  | .shr x y => packXyn 0x8#4 x y 0x6#4
  | .subn x y => packXyn 0x8#4 x y 0x7#4
  | .shl x y => packXyn 0x8#4 x y 0xE#4
  | .sneReg x y => packXyn 0x9#4 x y 0x0#4
  | .ldI nnn => packNnn 0xA#4 nnn
  | .jpV0 nnn => packNnn 0xB#4 nnn
  | .rnd x kk => packXkk 0xC#4 x kk
  | .drw x y n => packXyn 0xD#4 x y (BitVec.ofNat 4 n.val)
  | .skp x => packXkk 0xE#4 x 0x9E#8
  | .sknp x => packXkk 0xE#4 x 0xA1#8
  | .ldVxDt x => packXkk 0xF#4 x 0x07#8
  | .ldVxK x => packXkk 0xF#4 x 0x0A#8
  | .ldDtVx x => packXkk 0xF#4 x 0x15#8
  | .ldStVx x => packXkk 0xF#4 x 0x18#8
  | .addI x => packXkk 0xF#4 x 0x1E#8
  | .ldF x => packXkk 0xF#4 x 0x29#8
  | .ldB x => packXkk 0xF#4 x 0x33#8
  | .dump x => packXkk 0xF#4 x 0x55#8
  | .load x => packXkk 0xF#4 x 0x65#8

/-! ## The opcode table as data (R94; DECISION D1: "Keep the table as data") -/

/-- Families 0 to 7 of R94. -/
def opcodeRowsLow : List OpcodeRow :=
  [⟨"CLS", 0xFFFF#16, 0x00E0#16⟩, ⟨"RET", 0xFFFF#16, 0x00EE#16⟩, ⟨"JP_nnn", 0xF000#16, 0x1000#16⟩,
   ⟨"CALL_nnn", 0xF000#16, 0x2000#16⟩, ⟨"SE_Vx__kk", 0xF000#16, 0x3000#16⟩,
   ⟨"SNE_Vx__kk", 0xF000#16, 0x4000#16⟩, ⟨"SE_Vx__Vy", 0xF00F#16, 0x5000#16⟩,
   ⟨"LD_Vx__kk", 0xF000#16, 0x6000#16⟩, ⟨"ADD_Vx__kk", 0xF000#16, 0x7000#16⟩]

/-- Family 8 of R94. -/
def opcodeRowsAlu : List OpcodeRow :=
  [⟨"LD_Vx__Vy", 0xF00F#16, 0x8000#16⟩, ⟨"OR_Vx__Vy", 0xF00F#16, 0x8001#16⟩,
   ⟨"AND_Vx__Vy", 0xF00F#16, 0x8002#16⟩, ⟨"XOR_Vx__Vy", 0xF00F#16, 0x8003#16⟩,
   ⟨"ADD_Vx__Vy", 0xF00F#16, 0x8004#16⟩, ⟨"SUB_Vx__Vy", 0xF00F#16, 0x8005#16⟩,
   ⟨"SHR_Vx", 0xF00F#16, 0x8006#16⟩, ⟨"SUBN_Vx__Vy", 0xF00F#16, 0x8007#16⟩,
   ⟨"SHL_Vx", 0xF00F#16, 0x800E#16⟩]

/-- Families 9 to E of R94. -/
def opcodeRowsHigh : List OpcodeRow :=
  [⟨"SNE_Vx__Vy", 0xF00F#16, 0x9000#16⟩, ⟨"LD_I__nnn", 0xF000#16, 0xA000#16⟩,
   ⟨"JP_V0__nnn", 0xF000#16, 0xB000#16⟩, ⟨"RND_Vx__kk", 0xF000#16, 0xC000#16⟩,
   ⟨"DRW_Vx__Vy__n", 0xF000#16, 0xD000#16⟩, ⟨"SKP_Vx", 0xF0FF#16, 0xE09E#16⟩,
   ⟨"SKNP_Vx", 0xF0FF#16, 0xE0A1#16⟩]

/-- Family F of R94. -/
def opcodeRowsF : List OpcodeRow :=
  [⟨"LD_Vx__DT", 0xF0FF#16, 0xF007#16⟩, ⟨"LD_Vx__K", 0xF0FF#16, 0xF00A#16⟩,
   ⟨"LD_DT__Vx", 0xF0FF#16, 0xF015#16⟩, ⟨"LD_ST__Vx", 0xF0FF#16, 0xF018#16⟩,
   ⟨"ADD_I__Vx", 0xF0FF#16, 0xF01E#16⟩, ⟨"LD_F__Vx", 0xF0FF#16, 0xF029#16⟩,
   ⟨"LD_B__Vx", 0xF0FF#16, 0xF033#16⟩, ⟨"LD__I___Vx", 0xF0FF#16, 0xF055#16⟩,
   ⟨"LD_Vx___I", 0xF0FF#16, 0xF065#16⟩]

/-- The 34 rows of R94, in its order. -/
def opcodeTable : List OpcodeRow := opcodeRowsLow ++ opcodeRowsAlu ++ opcodeRowsHigh ++ opcodeRowsF

/-- A word selects a row when `(w & mask) == match` (R94). -/
def OpcodeRow.selects (r : OpcodeRow) (w : Word) : Bool := w &&& r.mask == r.pattern

/-- The constructor's mnemonic, as the table spells it. -/
def Instr.mnemonic : Instr → String
  | .cls => "CLS"
  | .ret => "RET"
  | .jp _ => "JP_nnn"
  | .call _ => "CALL_nnn"
  | .seImm _ _ => "SE_Vx__kk"
  | .sneImm _ _ => "SNE_Vx__kk"
  | .seReg _ _ => "SE_Vx__Vy"
  | .ldImm _ _ => "LD_Vx__kk"
  | .addImm _ _ => "ADD_Vx__kk"
  | .ldReg _ _ => "LD_Vx__Vy"
  | .orReg _ _ => "OR_Vx__Vy"
  | .andReg _ _ => "AND_Vx__Vy"
  | .xorReg _ _ => "XOR_Vx__Vy"
  | .addReg _ _ => "ADD_Vx__Vy"
  | .sub _ _ => "SUB_Vx__Vy"
  | .shr _ _ => "SHR_Vx"
  | .subn _ _ => "SUBN_Vx__Vy"
  | .shl _ _ => "SHL_Vx"
  | .sneReg _ _ => "SNE_Vx__Vy"
  | .ldI _ => "LD_I__nnn"
  | .jpV0 _ => "JP_V0__nnn"
  | .rnd _ _ => "RND_Vx__kk"
  | .drw _ _ _ => "DRW_Vx__Vy__n"
  | .skp _ => "SKP_Vx"
  | .sknp _ => "SKNP_Vx"
  | .ldVxDt _ => "LD_Vx__DT"
  | .ldVxK _ => "LD_Vx__K"
  | .ldDtVx _ => "LD_DT__Vx"
  | .ldStVx _ => "LD_ST__Vx"
  | .addI _ => "ADD_I__Vx"
  | .ldF _ => "LD_F__Vx"
  | .ldB _ => "LD_B__Vx"
  | .dump _ => "LD__I___Vx"
  | .load _ => "LD_Vx___I"

/-! ## The host's question: what the decoder reads from a row's word -/

/-- The word `w` of `nbits` bits as the two bytes memory holds, the high byte first (R64). The bits above
`nbits` are 0. -/
def tableBytes (nbits w : Nat) : List Byte :=
  let word := w % 2 ^ nbits % 2 ^ 16
  [BitVec.ofNat 8 (word / 256), BitVec.ofNat 8 word]

/-- What the decoder reads from the bytes of a table word; none where it refuses. -/
def decodeTableWord (nbits w : Nat) : Option Instr :=
  match decodeBytes (tableBytes nbits w) with
  | .ok (i, _) => some i
  | .error _ => none

end Sys2Proof
end

