-- ==== Sys2Proof/Machine/Flags.lean ====
section
/-! DEFINITION. The five ALU flags (spec/10_state.md R23): each is 0 or 1 and is computed from the original
operands (R24). DRW's collision flag is computed by the drawing unit (Machine/Display.lean). -/

namespace Sys2Proof.Machine

/-- A flag value in VF: "always with 0 or 1" (R23). -/
def flagByte (f : Bool) : Byte := if f then 1#8 else 0#8

/-- ADD: carry out of bit 7, `a + b > 255` (R146). -/
def carryFlag (a b : Byte) : Byte := flagByte (decide (a.toNat + b.toNat > 255))

/-- SUB and SUBN: no borrow, `a >= b` for the difference `a − b` (R147, R149). -/
def noBorrowFlag (a b : Byte) : Byte := flagByte (decide (a.toNat ≥ b.toNat))

/-- SHR: bit 0 of the register before the shift (R148). -/
def shiftedOutLow (a : Byte) : Byte := flagByte (a.getLsbD 0)

/-- SHL: bit 7 of the register before the shift (R150). -/
def shiftedOutHigh (a : Byte) : Byte := flagByte (a.getLsbD 7)

end Sys2Proof.Machine
end

