-- ==== Sys2Proof/Config.lean ====
section
/-! DEFINITION. The free values: what the spec leaves to the environment or to a parameter. Neither has a
body, so nothing can be proved of its values and a claim about it holds whatever they are. The third
parameter of R8, FONT, is plain data: an argument of type `Font` of all that resets the Machine
(Machine/HostActions.lean), with the spec's default `Machine.defaultFont` (Machine/Memory.lean). -/

namespace Sys2Proof

/-- FREE VALUE (notes/assumptions/4.md): the byte the random source answers to the n-th request of the
Machine. "the model takes `r` as an arbitrary byte supplied from outside" (R151, D17). -/
opaque Config.randomByte : Nat → Byte

/-- FREE VALUE (notes/assumptions/3.md): what selects the key LD Vx,K reports when several keys are down, a
function of the 16 slots: the parameter KEY_PICK (R8, R213, D11). Machine.keyPick keeps its result inside the
pressed set. -/
opaque Config.keyChoice : Vector Bool 16 → Nat

end Sys2Proof
end

