-- ==== Sys2Proof/Machine/State.lean ====
section
/-! DEFINITION. The state of the Machine (spec/10_state.md R20 to R45), its reset value (R43), and the reasons
a step can stop. -/

namespace Sys2Proof.Machine

/-- The kinds of fatal condition a step can raise (spec/60_exceptions.md R231). LoadError, the fifth kind,
belongs to Reset and is an answer to the host (R243). -/
inductive FatalKind where
  | addressOutOfRange   -- R232
  | stackUnderflow      -- R233
  | stackOverflow       -- R234
  | invalidOpcode       -- R235
deriving DecidableEq, Repr

/-- The record of a fatal condition (R237). -/
structure FatalRecord where
  kind : FatalKind
  /-- The instruction as fetched; absent when the fetch itself failed. -/
  word : Option Word
  /-- The pc at which it was fetched (for a failed fetch, the pc it tried). -/
  fpc  : Word
  /-- The failing address, for AddressOutOfRange only; it can exceed 16 bits. -/
  addr : Option Nat
deriving DecidableEq, Repr

/-- The halt state (R41). -/
inductive Halt where
  | running
  | halted (record : FatalRecord)
deriving DecidableEq, Repr

/-- The memory (spec/20_memory.md R60): the bytes that differ from `unlistedByte` (Machine/Memory.lean), in rising
order of address. -/
abbrev Memory := List Host.Cell

/-- The framebuffer: 32 rows of 64 one-bit cells, `true` is lit (R34). -/
abbrev Framebuffer := Vector (Vector Bool 64) 32

/-- The keypad: 16 one-bit slots, `true` is pressed (R39). -/
abbrev Keypad := Vector Bool 16


/-- Everything the spec gives the Machine (R45), and the model's own counter of random draws. -/
structure State where
  /-- V0..VF (R20); VF is V[15] (R21). -/
  v      : Vector Byte 16
  /-- The index register I (R30). -/
  index  : Word
  /-- The program counter (R25). -/
  pc     : Word
  /-- The call stack, newest entry first (R32; notes/assumptions/6.md). -/
  stack  : List Word
  /-- The framebuffer FB (R34). -/
  fb     : Framebuffer
  /-- The delay timer DT (R36). -/
  dt     : Byte
  /-- The sound timer ST (R37). -/
  st     : Byte
  /-- The keypad slots K (R39). -/
  keys   : Keypad
  /-- The current-instruction latch (R40). -/
  cur    : Word
  /-- Running, or halted with a record (R41). -/
  halt   : Halt
  /-- The memory (R60). -/
  mem    : Memory
  /-- The model's own: how many random bytes have been drawn (notes/assumptions/4.md). -/
  draws  : Nat
deriving DecidableEq, Repr

/-- The reasons a step could fault. There is none: every fatal condition of the spec has an entry the spec
describes (R230, R237) and is a next state that is halted (notes/assumptions/1.md), and every address an
instruction could form outside the memory is caught by the range check (R63). Raised by nobody; safe. -/
inductive Fault where
deriving DecidableEq, Repr

/-- The reasons a step could refuse. -/
inductive Refusal where
  /-- An instruction without a meaning. Raised by no arm of `exec`: every row of the table has its meaning.
  It would be safe. -/
  | notModelled (mnemonic : String)
deriving DecidableEq, Repr

/-- The answer of a step and of every instruction's meaning. -/
abbrev Answer (σ : Type) := Host.Outcome σ Fault Refusal

/-- The Machine right after Reset with an empty image and the default FONT (R43, R270, R271; DESIGN CHOICE,
notes/assumptions/2.md, `State.afterReset` takes any FONT). `cur` has no reset value in the spec
(DESIGN CHOICE, notes/assumptions/5.md) and `draws` is the model's own (DESIGN CHOICE, notes/assumptions/4.md). -/
def State.reset : State where
  v     := Vector.replicate 16 0#8
  index := 0x0000#16
  pc    := 0x0200#16
  stack := []
  fb    := Vector.replicate 32 (Vector.replicate 64 false)
  dt    := 0#8
  st    := 0#8
  keys  := Vector.replicate 16 false
  cur   := 0x0000#16
  halt  := .running
  mem   := []
  draws := 0

end Sys2Proof.Machine
end

