-- ==== Sys2Proof/Machine/Memory.lean ====
section
/-! DEFINITION. The memory: what an unlisted address reads as, MemRead and MemWrite (spec/00_scope.md R12,
spec/20_memory.md R60, R70, R71), and the canonical form of the list. -/

namespace Sys2Proof.Machine

/-! ## The default FONT, and what an unlisted address reads as -/

/-- Glyphs 0 to 7 of the default FONT (R75). -/
def fontLow : List Byte :=
  [0xF0, 0x90, 0x90, 0x90, 0xF0,  0x20, 0x60, 0x20, 0x20, 0x70,
   0xF0, 0x10, 0xF0, 0x80, 0xF0,  0xF0, 0x10, 0xF0, 0x10, 0xF0,
   0x90, 0x90, 0xF0, 0x10, 0x10,  0xF0, 0x80, 0xF0, 0x10, 0xF0,
   0xF0, 0x80, 0xF0, 0x90, 0xF0,  0xF0, 0x10, 0x20, 0x40, 0x40]

/-- Glyphs 8 to F of the default FONT (R75). -/
def fontHigh : List Byte :=
  [0xF0, 0x90, 0xF0, 0x90, 0xF0,  0xF0, 0x90, 0xF0, 0x10, 0xF0,
   0xF0, 0x90, 0xF0, 0x90, 0x90,  0xE0, 0x90, 0xE0, 0x90, 0xE0,
   0xF0, 0x80, 0x80, 0x80, 0xF0,  0xE0, 0x90, 0x90, 0x90, 0xE0,
   0xF0, 0x80, 0xF0, 0x80, 0xF0,  0xF0, 0x80, 0xF0, 0x80, 0x80]

/-- The bytes of the default FONT (R75). -/
def defaultFontBytes : List Byte := fontLow ++ fontHigh

/-- The default the spec gives the parameter FONT (R8, R75, D3). -/
def defaultFont : Font := ⟨defaultFontBytes.toArray, rfl⟩

/-- What an address the list does not name reads as: the contents Reset with the default FONT gives the memory
before it copies the image (R43, R71). It says how the list is read, and fixes no FONT: the bytes of another FONT
are listed like any other bytes (notes/assumptions/2.md). -/
def unlistedByte (a : Nat) : Byte := defaultFontBytes.getD a 0#8

/-! ## MemRead and MemWrite (R12) -/

/-- MemRead(a, 1). -/
def Memory.read : Memory → Nat → Byte
  | [], a => unlistedByte a
  | (k, b) :: rest, a => if k = a then b else Memory.read rest a

/-- The list with `b` listed for `a`, at its place in the rising order. -/
def Memory.insert : Memory → Nat → Byte → Memory
  | [], a, b => [(a, b)]
  | (k, c) :: rest, a, b =>
    if a < k then (a, b) :: (k, c) :: rest
    else if a = k then (a, b) :: rest
    else (k, c) :: Memory.insert rest a b

/-- The list with nothing listed for `a`. -/
def Memory.erase (m : Memory) (a : Nat) : Memory := m.filter fun c => c.1 != a

/-- MemWrite(a, 1, b), keeping the canonical form: storing what an unlisted address reads as removes the
entry. -/
def Memory.write (m : Memory) (a : Nat) (b : Byte) : Memory :=
  if b = unlistedByte a then m.erase a else m.insert a b

/-- MemWrite of consecutive bytes, the first at `a`. -/
def Memory.writeBytes : Memory → Nat → List Byte → Memory
  | m, _, [] => m
  | m, a, b :: bs => Memory.writeBytes (m.write a b) (a + 1) bs

/-- The `k` consecutive bytes from `a`. -/
def Memory.readBytes (m : Memory) : Nat → Nat → List Byte
  | _, 0 => []
  | a, k + 1 => m.read a :: m.readBytes (a + 1) k

/-! ## The canonical form -/

/-- Every address is one of the memory and at least `lo`, the addresses rise strictly, and no entry says what an
unlisted address reads as. -/
def Memory.wfFrom : Nat → Memory → Bool
  | _, [] => true
  | lo, (k, b) :: rest => lo ≤ k && k < memSize && b != unlistedByte k && Memory.wfFrom (k + 1) rest

/-- The canonical form: equal memories are equal lists. -/
def Memory.wf (m : Memory) : Bool := Memory.wfFrom 0 m

end Sys2Proof.Machine
end

