-- ==== Sys2Proof/Machine/Operands.lean ====
section
/-! DEFINITION. The operand forms: registers, immediates, the one addressing mode and its range check, keypad
slots, framebuffer cells (spec/30_encoding.md R92, R93; spec/42_index_memory.md R176; spec/20_memory.md R63). -/

namespace Sys2Proof.Machine

/-- VF, the 16th register (R21). -/
abbrev vf : Reg := 15

/-- `V[x]` (R11, R20). -/
def State.reg (s : State) (x : Reg) : Byte := s.v.get x

/-- An immediate address, zero-extended to the 16 bits of I and pc (R93, R170). -/
def extendNnn (nnn : Addr12) : Word := nnn.setWidth 16

/-- The address of offset `j`: the full 16-bit value of I plus `j`, neither wrapped nor masked (R176). -/
def State.effectiveAddr (s : State) (j : Nat) : Nat := s.index.toNat + j

/-- The `k` bytes from `a` lie inside the memory; no byte at all always does (R63). -/
def rangeFits (a k : Nat) : Bool := k = 0 || a + k ≤ memSize

/-- The address a failed range check reports, the first of the range that is out of bounds (R63). -/
def firstOutside (a : Nat) : Nat := max a memSize

/-- The bytes V[0]..V[x], in that order (R174). -/
def State.regsUpTo (s : State) (x : Reg) : List Byte :=
  (List.range (x.val + 1)).map fun j => s.reg (Fin.ofNat 16 j)

/-- The decimal digits of a byte: hundreds, tens, ones (R173). -/
def bcdDigits (b : Byte) : List Byte :=
  [BitVec.ofNat 8 (b.toNat / 100), BitVec.ofNat 8 (b.toNat / 10 % 10), BitVec.ofNat 8 (b.toNat % 10)]

/-- `K[k]` (R39). -/
def State.keyDown (s : State) (k : Key) : Bool := s.keys.get k

/-- The numbers of the pressed slots, rising (the set S of R213). -/
def pressedKeys (keys : Keypad) : List Key := (List.finRange 16).filter fun k => keys.get k

/-- KEY_PICK (R8, R213): a pressed key, none when no key is down. With one key down it is that key; with
several, which of them is a free value (notes/assumptions/3.md). -/
def keyPick (keys : Keypad) : Option Key :=
  match pressedKeys keys with
  | [] => none
  | [k] => some k
  | k :: k' :: rest =>
    some ((k :: k' :: rest).getD (Config.keyChoice keys % (rest.length + 2)) k)

/-- `FB[r][c]` (R34). -/
def Framebuffer.cell (fb : Framebuffer) (r : Fin 32) (c : Fin 64) : Bool := (fb.get r).get c

/-- `FB[r][c] <- lit`. -/
def Framebuffer.setCell (fb : Framebuffer) (r : Fin 32) (c : Fin 64) (lit : Bool) : Framebuffer :=
  fb.set r ((fb.get r).set c lit)

end Sys2Proof.Machine
end

