-- ==== Sys2Proof/Machine/Ops.lean ====
section
/-! DEFINITION. The named operations over the state: one per piece of state an instruction writes, the result
and flag write of the ALU, skips, the stack, fetch, and TAKING A FATAL CONDITION (spec/60_exceptions.md R230).
There is no return from one (R236, R241). -/

namespace Sys2Proof.Machine

/-! ## Writing one piece of state -/

/-- `V[x] <- b` (R11). No register is hardwired (R20). -/
def State.setReg (s : State) (x : Reg) (b : Byte) : State := { s with v := s.v.set x b }

/-- The whole register file replaced, as the register load does (R175). -/
def State.setRegs (s : State) (v : Vector Byte 16) : State := { s with v := v }

/-- `I <- a`. -/
def State.setIndex (s : State) (a : Word) : State := { s with index := a }

/-- `pc <- target`. -/
def State.setPc (s : State) (target : Word) : State := { s with pc := target }

/-- The call stack replaced. -/
def State.setStack (s : State) (stack : List Word) : State := { s with stack := stack }

/-- The framebuffer replaced. -/
def State.setFb (s : State) (fb : Framebuffer) : State := { s with fb := fb }

/-- `DT <- b`. -/
def State.setDt (s : State) (b : Byte) : State := { s with dt := b }

/-- `ST <- b`. -/
def State.setSt (s : State) (b : Byte) : State := { s with st := b }

/-- All 16 keypad slots replaced. -/
def State.setKeys (s : State) (keys : Keypad) : State := { s with keys := keys }

/-- `cur <- w`. -/
def State.setCur (s : State) (w : Word) : State := { s with cur := w }

/-- The halt state replaced. -/
def State.setHalt (s : State) (h : Halt) : State := { s with halt := h }

/-- The memory replaced. -/
def State.setMem (s : State) (m : Memory) : State := { s with mem := m }

/-- The counter of random draws replaced. -/
def State.setDraws (s : State) (n : Nat) : State := { s with draws := n }

/-! ## Taking a fatal condition (R230, R237, R238) -/

/-- A fatal condition raised at execute: "halt <- Halted(kind, word, fpc, addr) and the step ends". The word is
the one fetched, `fpc` is the pc two bytes back, and nothing else changes: the pc stays `fpc + 2`. -/
def State.takeFatal (s : State) (kind : FatalKind) (addr : Option Nat) : State :=
  s.setHalt (.halted ⟨kind, some s.cur, s.pc - 2#16, addr⟩)

/-- A fetch that raises AddressOutOfRange: no instruction word, and nothing but the halt state changes (R67). -/
def State.takeFetchFatal (s : State) : State :=
  s.setHalt (.halted ⟨.addressOutOfRange, none, s.pc, some (firstOutside s.pc.toNat)⟩)

/-- `raise kind(addr)` of the instruction rules (R13). -/
def State.raise (s : State) (kind : FatalKind) (addr : Option Nat) : Answer State :=
  .next (s.takeFatal kind addr)

/-- The range check of the `k` bytes from I before the access `act` (R63). -/
def State.checkRange (s : State) (k : Nat) (act : State → State) : Answer State :=
  if rangeFits (s.effectiveAddr 0) k then .next (act s)
  else s.raise .addressOutOfRange (some (firstOutside (s.effectiveAddr 0)))

/-! ## Fetch (R66, R67) -/

/-- Both bytes at the pc exist: `pc + 1 <= 0xFFF`. -/
def State.canFetch (s : State) : Bool := s.pc.toNat + 1 < memSize

/-- The instruction word at the pc, big-endian (R64). -/
def State.fetchWord (s : State) : Word :=
  wordOfBytes (s.mem.read s.pc.toNat) (s.mem.read (s.pc.toNat + 1))

/-- The state after a successful fetch: only pc and cur are written (R66). -/
def State.fetched (s : State) : State := (s.setCur s.fetchWord).setPc (s.pc + 2#16)

/-- The Machine is `Running`. -/
def State.isRunning (s : State) : Bool := s.halt == .running

/-! ## Shared shapes of instructions -/

/-- The result in V[x], then the flag in VF (R24, R153). -/
def State.setResultThenFlag (s : State) (x : Reg) (result flag : Byte) : State :=
  (s.setReg x result).setReg vf flag

/-- A skip: 2 more on the pc when the condition holds (R128). -/
def State.skipIf (s : State) (c : Bool) : State := if c then s.setPc (s.pc + 2#16) else s

/-- A key skip: the slot V[x] names decides, and a value above 15 names none (R210, R211, D10). -/
def State.skipOnKey (s : State) (x : Reg) (wanted : Bool) : Answer State :=
  if h : (s.reg x).toNat < 16 then
    .next (s.skipIf (s.keyDown ⟨(s.reg x).toNat, h⟩ == wanted))
  else s.raise .addressOutOfRange (some (s.reg x).toNat)

/-- The registers with V[j], V[j+1], … replaced by the bytes of a list, register 0 following register 15
nowhere: the lists used have at most 16 - j bytes (R175). -/
def loadRegs : Vector Byte 16 → Nat → List Byte → Vector Byte 16
  | v, _, [] => v
  | v, j, b :: bs => loadRegs (v.set (Fin.ofNat 16 j) b) (j + 1) bs

/-- One random byte: the free value of the next draw (R151, R252; notes/assumptions/4.md). -/
def State.randomByte (s : State) : Byte := Config.randomByte s.draws

end Sys2Proof.Machine
end

