-- ==== Sys2Proof/Machine/Alu.lean ====
section
/-! DEFINITION. Register, ALU and random instructions (spec/41_alu.md R140 to R153). -/

namespace Sys2Proof.Machine

/-- LD Vx, kk (R140). -/
def execLdImm (x : Reg) (kk : Byte) (s : State) : Answer State := .next (s.setReg x kk)

/-- ADD Vx, kk (R141): modulo 256, VF untouched. -/
def execAddImm (x : Reg) (kk : Byte) (s : State) : Answer State := .next (s.setReg x (s.reg x + kk))

/-- LD Vx, Vy (R142). -/
def execLdReg (x y : Reg) (s : State) : Answer State := .next (s.setReg x (s.reg y))

/-- OR Vx, Vy (R143). -/
def execOr (x y : Reg) (s : State) : Answer State := .next (s.setReg x (s.reg x ||| s.reg y))

/-- AND Vx, Vy (R144). -/
def execAnd (x y : Reg) (s : State) : Answer State := .next (s.setReg x (s.reg x &&& s.reg y))

/-- XOR Vx, Vy (R145). -/
def execXor (x y : Reg) (s : State) : Answer State := .next (s.setReg x (s.reg x ^^^ s.reg y))

/-- ADD Vx, Vy (R146). -/
def execAddReg (x y : Reg) (s : State) : Answer State :=
  .next (s.setResultThenFlag x (s.reg x + s.reg y) (carryFlag (s.reg x) (s.reg y)))

/-- SUB Vx, Vy (R147). -/
def execSub (x y : Reg) (s : State) : Answer State :=
  .next (s.setResultThenFlag x (s.reg x - s.reg y) (noBorrowFlag (s.reg x) (s.reg y)))

/-- SHR Vx (R148): V[x] in place, the `y` field ignored. -/
def execShr (x _y : Reg) (s : State) : Answer State :=
  .next (s.setResultThenFlag x (s.reg x >>> 1) (shiftedOutLow (s.reg x)))

/-- SUBN Vx, Vy (R149). -/
def execSubn (x y : Reg) (s : State) : Answer State :=
  .next (s.setResultThenFlag x (s.reg y - s.reg x) (noBorrowFlag (s.reg y) (s.reg x)))

/-- SHL Vx (R150): V[x] in place, the `y` field ignored. -/
def execShl (x _y : Reg) (s : State) : Answer State :=
  .next (s.setResultThenFlag x (s.reg x <<< 1) (shiftedOutHigh (s.reg x)))

/-- RND Vx, kk (R151): a fresh draw, masked. -/
def execRnd (x : Reg) (kk : Byte) (s : State) : Answer State :=
  .next ((s.setReg x (s.randomByte &&& kk)).setDraws (s.draws + 1))

end Sys2Proof.Machine
end

