-- ==== Sys2Proof/Machine/Control.lean ====
section
/-! DEFINITION. Control-transfer instructions (spec/40_control_flow.md R120 to R129). -/

namespace Sys2Proof.Machine

/-- RET (R120). -/
def execRet (s : State) : Answer State :=
  match s.stack with
  | [] => s.raise .stackUnderflow none
  | a :: rest => .next ((s.setStack rest).setPc a)

/-- JP nnn (R121). -/
def execJp (nnn : Addr12) (s : State) : Answer State := .next (s.setPc (extendNnn nnn))

/-- CALL nnn (R122): the pc pushed is already the return address. -/
def execCall (nnn : Addr12) (s : State) : Answer State :=
  if s.stack.length ≥ stackDepth then s.raise .stackOverflow none
  else .next ((s.setStack (s.pc :: s.stack)).setPc (extendNnn nnn))

/-- SE Vx, kk (R123). -/
def execSeImm (x : Reg) (kk : Byte) (s : State) : Answer State := .next (s.skipIf (s.reg x == kk))

/-- SNE Vx, kk (R124). -/
def execSneImm (x : Reg) (kk : Byte) (s : State) : Answer State := .next (s.skipIf (s.reg x != kk))

/-- SE Vx, Vy (R125). -/
def execSeReg (x y : Reg) (s : State) : Answer State := .next (s.skipIf (s.reg x == s.reg y))

/-- SNE Vx, Vy (R126). -/
def execSneReg (x y : Reg) (s : State) : Answer State := .next (s.skipIf (s.reg x != s.reg y))

/-- JP V0, nnn (R127): the sum is held in full, 0x0000..0x10FE. -/
def execJpV0 (nnn : Addr12) (s : State) : Answer State :=
  .next (s.setPc (BitVec.ofNat 16 ((s.reg 0).toNat + nnn.toNat)))

end Sys2Proof.Machine
end

