-- ==== Sys2Proof/Machine/Display.lean ====
section
/-! DEFINITION. The sprite-drawing unit and the display instructions (spec/43_display.md R190 to R199). -/

namespace Sys2Proof.Machine

/-- A framebuffer with every cell unlit. -/
def clearScreen : Framebuffer := Vector.replicate 32 (Vector.replicate 64 false)

/-- CLS (R190). -/
def execCls (s : State) : Answer State := .next (s.setFb clearScreen)

/-- The row a sprite row lands on: `(V[y] + row) mod 32` (R193). -/
def targetRow (vy : Byte) (row : Nat) : Fin 32 := Fin.ofNat 32 (vy.toNat + row)

/-- The column a sprite column lands on: `(V[x] + column) mod 64` (R193). -/
def targetCol (vx : Byte) (col : Nat) : Fin 64 := Fin.ofNat 64 (vx.toNat + col)

/-- The pixel of a sprite byte at a column: bit 7 is column 0 (R192). -/
def spritePixel (b : Byte) (col : Nat) : Bool := b.getLsbD (7 - col)

/-- What drawing carries from cell to cell: the display so far, and whether a lit cell met a sprite bit (R194). -/
abbrev Canvas := Framebuffer × Bool

/-- One cell: XORed with the sprite bit, a collision when both are 1 (R191, R194). -/
def drawPixel (r : Fin 32) (c : Fin 64) (bit : Bool) (d : Canvas) : Canvas :=
  (Framebuffer.setCell d.1 r c (Framebuffer.cell d.1 r c ^^ bit), d.2 || (Framebuffer.cell d.1 r c && bit))

/-- One row of a sprite: its 8 columns (R191). -/
def drawRow (vx : Byte) (r : Fin 32) (b : Byte) (d : Canvas) : Canvas :=
  (List.range 8).foldl (fun d col => drawPixel r (targetCol vx col) (spritePixel b col) d) d

/-- The rows of a sprite from number `row` on (R191). -/
def drawRows (vx vy : Byte) : Nat → List Byte → Canvas → Canvas
  | _, [], d => d
  | row, b :: bs, d => drawRows vx vy (row + 1) bs (drawRow vx (targetRow vy row) b d)

/-- The display and the collision after a sprite: both coordinates are read before anything is written (R197),
and the collision is computed once for the whole sprite (R194). -/
def State.draw (s : State) (x y : Reg) (n : Nat) : Canvas :=
  drawRows (s.reg x) (s.reg y) 0 (s.mem.readBytes (s.effectiveAddr 0) n) (s.fb, false)

/-- DRW Vx, Vy, n (R191). -/
def execDrw (x y : Reg) (n : Fin 16) (s : State) : Answer State :=
  s.checkRange n.val fun s =>
    (s.setFb (s.draw x y n.val).1).setReg vf (flagByte (s.draw x y n.val).2)

end Sys2Proof.Machine
end

