-- ==== Sys2Proof/Machine/IndexMemory.lean ====
section
/-! DEFINITION. Index-register and memory instructions (spec/42_index_memory.md R170 to R176). -/

namespace Sys2Proof.Machine

/-- LD I, nnn (R170). -/
def execLdI (nnn : Addr12) (s : State) : Answer State := .next (s.setIndex (extendNnn nnn))

/-- ADD I, Vx (R171): a sum past 0xFFFF is fatal and I does not wrap (D9). -/
def execAddI (x : Reg) (s : State) : Answer State :=
  if s.index.toNat + (s.reg x).toNat > 0xFFFF then
    s.raise .addressOutOfRange (some (s.index.toNat + (s.reg x).toNat))
  else .next (s.setIndex (BitVec.ofNat 16 (s.index.toNat + (s.reg x).toNat)))

/-- LD F, Vx (R172): five times the register, unmasked; FONT_BASE is 0. -/
def execLdF (x : Reg) (s : State) : Answer State :=
  .next (s.setIndex (BitVec.ofNat 16 (5 * (s.reg x).toNat)))

/-- LD B, Vx (R173). -/
def execLdB (x : Reg) (s : State) : Answer State :=
  s.checkRange 3 fun s => s.setMem (s.mem.writeBytes (s.effectiveAddr 0) (bcdDigits (s.reg x)))

/-- LD [I], Vx (R174): V[0]..V[x] stored, I unchanged. -/
def execDump (x : Reg) (s : State) : Answer State :=
  s.checkRange (x.val + 1) fun s => s.setMem (s.mem.writeBytes (s.effectiveAddr 0) (s.regsUpTo x))

/-- LD Vx, [I] (R175): V[0]..V[x] loaded, I unchanged. -/
def execLoad (x : Reg) (s : State) : Answer State :=
  s.checkRange (x.val + 1) fun s =>
    s.setRegs (loadRegs s.v 0 (s.mem.readBytes (s.effectiveAddr 0) (x.val + 1)))

end Sys2Proof.Machine
end

