-- ==== Sys2Proof/Machine/KeypadTimers.lean ====
section
/-! DEFINITION. Keypad and timer instructions (spec/44_keypad_timers.md R210 to R215). -/

namespace Sys2Proof.Machine

/-- SKP Vx (R210). -/
def execSkp (x : Reg) (s : State) : Answer State := s.skipOnKey x true

/-- SKNP Vx (R211). -/
def execSknp (x : Reg) (s : State) : Answer State := s.skipOnKey x false

/-- LD Vx, DT (R212). -/
def execLdVxDt (x : Reg) (s : State) : Answer State := .next (s.setReg x s.dt)

/-- LD Vx, K (R213): with no key down the pc goes back to the instruction; else a pressed key is stored. -/
def execLdVxK (x : Reg) (s : State) : Answer State :=
  match keyPick s.keys with
  | none => .next (s.setPc (s.pc - 2#16))
  | some k => .next (s.setReg x (BitVec.ofNat 8 k.val))

/-- LD DT, Vx (R214). -/
def execLdDtVx (x : Reg) (s : State) : Answer State := .next (s.setDt (s.reg x))

/-- LD ST, Vx (R215). -/
def execLdStVx (x : Reg) (s : State) : Answer State := .next (s.setSt (s.reg x))

end Sys2Proof.Machine
end

