-- ==== Sys2Proof/Machine/Step.lean ====
section
/-! DEFINITION. One step of the Machine (spec/00_scope.md R7): fetch, decode, execute, indivisible. -/

namespace Sys2Proof.Machine

/-- One step. A halted Machine ignores it (R236). The checks come in the order fetch, decode, execute (R239). -/
def step (s : State) : Host.Outcome State Fault Refusal :=
  if s.isRunning then
    if s.canFetch then
      match decode s.fetchWord with
      | .ok i => exec i s.fetched
      | .error _ => s.fetched.raise .invalidOpcode none
    else .next s.takeFetchFatal
  else .next s

/-- The pc the next step of `s` fetches from: its own where two bytes can be fetched there, else the entry
point. -/
def State.fetchPc (s : State) : Word := if s.canFetch then s.pc else 0x0200#16

/-- `s` with the table word `w` stored where the next step fetches, its high byte at the lower address (R64).
The Machine must be Running to fetch and the pc must name two bytes of the memory, so these two are set where
they do not hold (notes/assumptions/8.md). -/
def State.withFetchWord (s : State) (nbits w : Nat) : State :=
  ((s.setMem (s.mem.writeBytes s.fetchPc.toNat (tableBytes nbits w))).setPc s.fetchPc).setHalt .running

end Sys2Proof.Machine
end

