-- ==== Sys2Proof/WellFormed.lean ====
section
/-! DEFINITION. The two checks on what comes from outside: a program image (spec/70_reset_and_hazards.md
R272) and a code word (spec/30_encoding.md R94, R96). A term of `Instr` needs no check: each operand's type is
exactly its field of the word, so no term is ill-formed (R20: "no register index is ever out of range"). -/

namespace Sys2Proof

/-- An image is accepted when it is at most 0xE00 bytes long (R272). -/
def imageFits (image : List Byte) : Bool := image.length ≤ maxProg

/-- A word is an instruction when some row of the opcode table selects it (R94, R96). -/
def validWord (w : Word) : Bool := opcodeTable.any fun r => r.selects w

end Sys2Proof
end

