-- ==== Sys2Proof/Machine/HostActions.lean ====
section
/-! DEFINITION. The host interface (spec/60_exceptions.md R246 to R260): what the host does between two steps,
and a run as a sequence of steps and host actions (R253). -/

namespace Sys2Proof.Machine

/-- What the host can do between two steps, Step itself apart (R253, R260). -/
inductive HostAction where
  | reset (image : List Byte)   -- R246
  | setKeys (keys : Keypad)     -- R248
  | tick                        -- R249
  | readDisplay                 -- R250
  | readTimers                  -- R251
  | readState                   -- R254
deriving DecidableEq, Repr

/-- What the host gets back. -/
inductive HostAnswer where
  | done
  /-- LoadError, "program too large", with the length of the image (R231, R243, R272). -/
  | loadError (length : Nat)
  | display (fb : Framebuffer)
  | timers (dt st : Byte)
  | state (s : State)
deriving DecidableEq, Repr

/-- The memory after Reset with a FONT and an image: every byte of 0x000..0x04F from FONT, the image from 0x200,
zero elsewhere (R43, R71, R270). The list starts empty: where it is not written an address from 0x050 on reads
zero. -/
def resetMemory (font : Font) (image : List Byte) : Memory :=
  (Memory.writeBytes [] fontBase font.toList).writeBytes progBase image

/-- The state after a successful Reset with an image, on hardware with this FONT (R270). The free values already
drawn are not drawn again: `draws` is the model's own counter and goes on (notes/assumptions/4.md). -/
def State.afterReset (font : Font) (image : List Byte) (draws : Nat) : State :=
  (State.reset.setMem (resetMemory font image)).setDraws draws

/-- A timer one Tick later: floor 0 (R249). -/
def countDown (b : Byte) : Byte := if b = 0#8 then 0#8 else b - 1#8

/-- Reset(image): refused as a whole when the image is too long, and then nothing changes (R270, R272, D24). -/
def hostReset (font : Font) (image : List Byte) (s : State) : State × HostAnswer :=
  if imageFits image then (State.afterReset font image s.draws, .done) else (s, .loadError image.length)

/-- Tick: each timer down by one, on its own floor (R249). -/
def hostTick (s : State) : State := (s.setDt (countDown s.dt)).setSt (countDown s.st)

/-- One host action on hardware with this FONT: the state after it and what the host gets back. -/
def hostAct (font : Font) (a : HostAction) (s : State) : State × HostAnswer :=
  match a with
  | .reset image => hostReset font image s
  | .setKeys keys => (s.setKeys keys, .done)
  | .tick => (hostTick s, .done)
  | .readDisplay => (s, .display s.fb)
  | .readTimers => (s, .timers s.dt s.st)
  | .readState => (s, .state s)

/-! ## The Machine behind its ports, and runs (R253, R259) -/

/-- The Machine and the line `load_error`, "the last reset was refused". The line is the interface's and no state
of the Machine: a refused Reset changes nothing there (R259, R272, D24; notes/assumptions/28.md). -/
structure Platform where
  machine   : State
  loadError : Bool
deriving DecidableEq, Repr

/-- The platform after a first, successful Reset with the empty image. -/
def Platform.start (font : Font) : Platform := ⟨State.afterReset font [] 0, false⟩

/-- The line `load_error` after a host action: each Reset sets or clears it, no other action touches it (R259). -/
def loadErrorAfter (a : HostAction) (was : Bool) : Bool :=
  match a with
  | .reset image => !imageFits image
  | .setKeys _ | .tick | .readDisplay | .readTimers | .readState => was

/-- One host action at the ports. -/
def Platform.act (font : Font) (a : HostAction) (p : Platform) : Platform × HostAnswer :=
  (⟨(hostAct font a p.machine).1, loadErrorAfter a p.loadError⟩, (hostAct font a p.machine).2)

/-- What can happen between two states: a step (R247) or a host action. -/
inductive Event where
  | step
  | host (a : HostAction)
deriving DecidableEq, Repr

/-- One event. -/
def move (font : Font) (e : Event) (p : Platform) : Answer Platform :=
  match e with
  | .step =>
    match step p.machine with
    | .next t => .next { p with machine := t }
    | .fault r => .fault r
    | .refused r => .refused r
  | .host a => .next (p.act font a).1

/-- A run: any finite sequence of events, in which any number of host actions may stand between two steps
(R253, D16). -/
def run (font : Font) : List Event → Platform → Answer Platform
  | [], p => .next p
  | e :: es, p =>
    match move font e p with
    | .next q => run font es q
    | .fault r => .fault r
    | .refused r => .refused r

/-! ## The codes of the fatal conditions and the output ports (R231, R259, D14, D15) -/

/-- The five kinds of the taxonomy: LoadError, which belongs to Reset, and the four of a step (R231). -/
inductive Cause where
  | loadError
  | fatal (kind : FatalKind)
deriving DecidableEq, Repr

/-- The numeric codes (R231, D14). -/
def Cause.code : Cause → Nat
  | .loadError => 1
  | .fatal .addressOutOfRange => 2
  | .fatal .stackUnderflow => 3
  | .fatal .stackOverflow => 4
  | .fatal .invalidOpcode => 5

/-- The condition an answer reports: LoadError for a refused Reset, none for any other (R231, R243). -/
def HostAnswer.cause : HostAnswer → Option Cause
  | .loadError _ => some .loadError
  | .done | .display _ | .timers _ _ | .state _ => none

/-- The output ports of R259; an absent word or address is its `valid` line at 0. DESIGN CHOICE
(notes/assumptions/28.md): `fault_pc` has no `valid` line and the spec states no value for it while the Machine is
running; here it is absent then. -/
structure Ports where
  loadError : Bool
  fb        : Framebuffer
  dt        : Byte
  st        : Byte
  halted    : Bool
  faultKind : Nat
  faultWord : Option Word
  faultPc   : Option Word
  faultAddr : Option Nat
deriving DecidableEq, Repr

/-- The ports as the platform sets them; `fault_kind` is 0 while running (R259). That `fault_pc` is absent while
running is the model's choice (notes/assumptions/28.md). -/
def Platform.ports (p : Platform) : Ports :=
  match p.machine.halt with
  | .running => ⟨p.loadError, p.machine.fb, p.machine.dt, p.machine.st, false, 0, none, none, none⟩
  | .halted r =>
    ⟨p.loadError, p.machine.fb, p.machine.dt, p.machine.st, true, (Cause.fatal r.kind).code, r.word, some r.fpc,
      r.addr⟩

end Sys2Proof.Machine
end

