-- ==== Sys2Proof/Safety.lean ====
section
/-! DEFINITION. What counts as a safe run, and the invariant of the Machine. -/

namespace Sys2Proof.Machine

/-- A state is good while the Machine is Running: "the halted state is never a final state of a successful run"
(spec/60_exceptions.md R236, D13). -/
def State.Good (s : State) : Prop := s.halt = .running

/-- The terminal idiom of spec/70_reset_and_hazards.md R277: the Machine is Running and the two bytes at the pc
are a jump to the pc. -/
def State.Terminal (s : State) : Prop :=
  s.halt = .running ∧ s.canFetch = true ∧ ∃ nnn, decode s.fetchWord = .ok (.jp nnn) ∧ extendNnn nnn = s.pc

/-- The instructions that can raise AddressOutOfRange (spec/60_exceptions.md R231). -/
def checksIndex : Instr → Bool
  | .drw _ _ _ | .ldB _ | .dump _ | .load _ | .addI _ | .skp _ | .sknp _ => true
  | .cls | .ret | .jp _ | .call _ | .seImm _ _ | .sneImm _ _ | .seReg _ _ | .ldImm _ _ | .addImm _ _
  | .ldReg _ _ | .orReg _ _ | .andReg _ _ | .xorReg _ _ | .addReg _ _ | .sub _ _ | .shr _ _ | .subn _ _
  | .shl _ _ | .sneReg _ _ | .ldI _ | .jpV0 _ | .rnd _ _ | .ldVxDt _ | .ldVxK _ | .ldDtVx _ | .ldStVx _
  | .ldF _ => false

/-- A record as R231 and R237 allow it: which word and which address go with which kind. -/
def FatalRecord.Legal (r : FatalRecord) : Prop :=
  match r.kind, r.word, r.addr with
  | .addressOutOfRange, none, some a => a = firstOutside r.fpc.toNat ∧ 0xFFF ≤ r.fpc.toNat
  | .addressOutOfRange, some w, some a => a ≤ 0x100FE ∧ ∃ i, decode w = .ok i ∧ checksIndex i = true
  | .stackUnderflow, some w, none => w = 0x00EE#16
  | .stackOverflow, some w, none => ∃ nnn, decode w = .ok (.call nnn)
  | .invalidOpcode, some w, none => decode w = .error (.invalidOpcode w)
  | _, _, _ => False

/-- What the halt state says of the pc (spec/60_exceptions.md R238): two bytes past the faulting instruction,
or on it after a failed fetch. -/
def State.HaltAgrees (s : State) : Prop :=
  match s.halt with
  | .running => True
  | .halted r => r.Legal ∧ s.pc = (if r.word.isSome then r.fpc + 2#16 else r.fpc)

/-- What holds of every state a run reaches: the memory is in its canonical form, the pc is at most 0x10FE
(spec/10_state.md R29), the stack holds at most 16 entries, each in 0x0002..0x1000 (R32, R45), and a halted
Machine holds a legal record. -/
structure State.Inv (s : State) : Prop where
  memCanonical : s.mem.wf = true
  pcInRange    : s.pc.toNat ≤ 0x10FE
  stackFits    : s.stack.length ≤ stackDepth
  stackEntries : ∀ a ∈ s.stack, 2 ≤ a.toNat ∧ a.toNat ≤ 0x1000
  haltAgrees   : s.HaltAgrees

/-! ## What an instruction changes and what it leaves unchanged -/

/-- `t` is `s` but for V[x], which holds `b`: every other register and every other piece of state is as in `s`. -/
def State.WritesReg (s t : State) (x : Reg) (b : Byte) : Prop :=
  t = { s with v := t.v } ∧ ∀ z, t.reg z = if z = x then b else s.reg z

/-- `t` is `s` but for V[x], which holds the result, and VF, which holds the flag and is written last
(spec/10_state.md R24). -/
def State.WritesRegThenVf (s t : State) (x : Reg) (result flag : Byte) : Prop :=
  t = { s with v := t.v } ∧ ∀ z, t.reg z = if z = vf then flag else if z = x then result else s.reg z

/-- `s` halted by a fatal condition raised at execute: the record of spec/60_exceptions.md R237, and nothing else
changed. During execute the pc is `fpc + 2` and `cur` is the word fetched (spec/10_state.md R27, R40). -/
def State.HaltedBy (s : State) (kind : FatalKind) (addr : Option Nat) : State :=
  { s with halt := .halted ⟨kind, some s.cur, s.pc - 2#16, addr⟩ }

/-- The general registers an instruction may write, VF as a flag among them (spec/10_state.md R22). -/
def writesReg (i : Instr) (z : Reg) : Bool :=
  match i with
  | .ldImm x _ | .addImm x _ | .ldReg x _ | .orReg x _ | .andReg x _ | .xorReg x _ | .rnd x _
  | .ldVxDt x | .ldVxK x => z == x
  | .addReg x _ | .sub x _ | .shr x _ | .subn x _ | .shl x _ => z == x || z == vf
  | .drw _ _ _ => z == vf
  | .load x => z ≤ x
  | .cls | .ret | .jp _ | .call _ | .seImm _ _ | .sneImm _ _ | .seReg _ _ | .sneReg _ _ | .ldI _ | .jpV0 _
  | .skp _ | .sknp _ | .ldDtVx _ | .ldStVx _ | .addI _ | .ldF _ | .ldB _ | .dump _ => false

/-- The instructions whose rule writes the pc (spec/10_state.md R26). -/
def writesPc : Instr → Bool
  | .ret | .jp _ | .call _ | .seImm _ _ | .sneImm _ _ | .seReg _ _ | .sneReg _ _ | .jpV0 _ | .skp _ | .sknp _
  | .ldVxK _ => true
  | .cls | .ldImm _ _ | .addImm _ _ | .ldReg _ _ | .orReg _ _ | .andReg _ _ | .xorReg _ _ | .addReg _ _
  | .sub _ _ | .shr _ _ | .subn _ _ | .shl _ _ | .ldI _ | .rnd _ _ | .drw _ _ _ | .ldVxDt _ | .ldDtVx _
  | .ldStVx _ | .addI _ | .ldF _ | .ldB _ | .dump _ | .load _ => false

/-! ## What a fetch runs, and what a store leaves to be read -/

/-- The next step of `s` fetches and runs the instruction `i` (spec/00_scope.md R7, spec/20_memory.md R66). -/
def State.Runs (s : State) (i : Instr) : Prop :=
  s.halt = .running ∧ s.pc.toNat + 1 ≤ 0xFFF ∧ decode s.fetchWord = .ok i

/-- What address `a` holds after LD [I], Vx from `s`: the register whose place it is, else what it held
(spec/42_index_memory.md R174). -/
def State.byteAfterDump (s : State) (x : Reg) (a : Nat) : Byte :=
  if s.index.toNat ≤ a ∧ a ≤ s.index.toNat + x.val then s.reg (Fin.ofNat 16 (a - s.index.toNat)) else s.mem.read a

/-- What address `a` holds after LD B, Vx from `s`: the hundreds, tens or ones of V[x], else what it held
(spec/42_index_memory.md R173). -/
def State.byteAfterBcd (s : State) (x : Reg) (a : Nat) : Byte :=
  if a = s.index.toNat then BitVec.ofNat 8 ((s.reg x).toNat / 100)
  else if a = s.index.toNat + 1 then BitVec.ofNat 8 ((s.reg x).toNat / 10 % 10)
  else if a = s.index.toNat + 2 then BitVec.ofNat 8 ((s.reg x).toNat % 10)
  else s.mem.read a

/-- A 1 bit of the sprite of DRW Vx, Vy, n falls on the cell (r, c): some row of the `n` and some column of the 8
land there with per-pixel wrap, and that bit of the row's byte, bit 7 first, is 1 (spec/43_display.md R192,
R193). -/
def State.SpriteCovers (s : State) (x y : Reg) (n : Nat) (r : Fin 32) (c : Fin 64) : Prop :=
  ∃ row col, row < n ∧ col < 8 ∧ r.val = ((s.reg y).toNat + row) % 32 ∧ c.val = ((s.reg x).toNat + col) % 64 ∧
    (s.mem.read (s.effectiveAddr row)).getLsbD (7 - col) = true

end Sys2Proof.Machine
end

