-- ==== Sys2Proof/Certificates/Slice0/Obligations.lean ====
section
/-! DEFINITION. The statements for the provers. Each docstring names the rule of spec/ a statement formalises, or
says what of it is the spec's own decision or the model's choice. -/

open Sys2Proof Sys2Proof.Machine

/-! ## Encoding -/

/-- Decoding the encoding of an instruction gives it back, every operand included (30_encoding.md R94, R95). -/
def Obligations.DecodeOfEncodeIsTheInstruction : Prop :=
  ∀ i : Instr, decode (encode i) = .ok i

/-- Encoding what a word decodes to gives the word back: every bit of a valid word is an operand or fixed, the
ignored `y` of SHR and SHL included (30_encoding.md R94, R99). -/
def Obligations.EncodeOfDecodeIsTheWord : Prop :=
  ∀ (w : Word) (i : Instr), decode w = .ok i → encode i = w

/-- The decoder of R95 and the table of R94 agree: a word is an instruction exactly when a row selects it, that
row has the instruction's mnemonic, no word selects two rows, and every other word is refused by name. -/
def Obligations.DecodeAcceptsExactlyTheTableWords : Prop :=
  (∀ w i, decode w = .ok i → ∃ r ∈ opcodeTable, r.mnemonic = i.mnemonic ∧ w &&& r.mask = r.pattern) ∧
  (∀ w, ∀ r ∈ opcodeTable, w &&& r.mask = r.pattern → ∃ i, decode w = .ok i) ∧
  (∀ w, ∀ r ∈ opcodeTable, ∀ q ∈ opcodeTable, w &&& r.mask = r.pattern → w &&& q.mask = q.pattern → r = q) ∧
  (∀ w, (∀ r ∈ opcodeTable, w &&& r.mask ≠ r.pattern) → decode w = .error (.invalidOpcode w))

/-- Every valid word of 95_test_vectors.md section 3.1, at least one of each family, and invalid words of its section
3.2. The patterns are the spec's decision D1 (notes/assumptions/9.md); that 5011 is invalid is D8, that 0123 is D20
(notes/assumptions/19.md). -/
def Obligations.SampleWordsDecodeAsTheTableSays : Prop :=
  (decode 0x00E0#16 = .ok .cls ∧ decode 0x00EE#16 = .ok .ret ∧ decode 0x1ABC#16 = .ok (.jp 0xABC#12) ∧
    decode 0x2ABC#16 = .ok (.call 0xABC#12) ∧ decode 0x3A7F#16 = .ok (.seImm 0xA 0x7F#8) ∧
    decode 0x4A7F#16 = .ok (.sneImm 0xA 0x7F#8) ∧ decode 0x5AB0#16 = .ok (.seReg 0xA 0xB) ∧
    decode 0x6A7F#16 = .ok (.ldImm 0xA 0x7F#8) ∧ decode 0x7A7F#16 = .ok (.addImm 0xA 0x7F#8)) ∧
  (decode 0x8AB0#16 = .ok (.ldReg 0xA 0xB) ∧ decode 0x8AB1#16 = .ok (.orReg 0xA 0xB) ∧
    decode 0x8AB2#16 = .ok (.andReg 0xA 0xB) ∧ decode 0x8AB3#16 = .ok (.xorReg 0xA 0xB) ∧
    decode 0x8AB4#16 = .ok (.addReg 0xA 0xB) ∧ decode 0x8AB5#16 = .ok (.sub 0xA 0xB) ∧
    decode 0x8AB6#16 = .ok (.shr 0xA 0xB) ∧ decode 0x8AB7#16 = .ok (.subn 0xA 0xB) ∧
    decode 0x8ABE#16 = .ok (.shl 0xA 0xB)) ∧
  (decode 0x9AB0#16 = .ok (.sneReg 0xA 0xB) ∧ decode 0xAABC#16 = .ok (.ldI 0xABC#12) ∧
    decode 0xBABC#16 = .ok (.jpV0 0xABC#12) ∧ decode 0xCA7F#16 = .ok (.rnd 0xA 0x7F#8) ∧
    decode 0xDAB5#16 = .ok (.drw 0xA 0xB 5) ∧ decode 0xEA9E#16 = .ok (.skp 0xA) ∧
    decode 0xEAA1#16 = .ok (.sknp 0xA)) ∧
  (decode 0xFA07#16 = .ok (.ldVxDt 0xA) ∧ decode 0xFA0A#16 = .ok (.ldVxK 0xA) ∧
    decode 0xFA15#16 = .ok (.ldDtVx 0xA) ∧ decode 0xFA18#16 = .ok (.ldStVx 0xA) ∧
    decode 0xFA1E#16 = .ok (.addI 0xA) ∧ decode 0xFA29#16 = .ok (.ldF 0xA) ∧ decode 0xFA33#16 = .ok (.ldB 0xA) ∧
    decode 0xFA55#16 = .ok (.dump 0xA) ∧ decode 0xFA65#16 = .ok (.load 0xA)) ∧
  (decode 0x0123#16 = .error (.invalidOpcode 0x0123#16) ∧ decode 0x5011#16 = .error (.invalidOpcode 0x5011#16) ∧
    decode 0xF030#16 = .error (.invalidOpcode 0xF030#16))

/-! ## The step -/

/-- Fetch is big-endian: the byte at the pc counts 256 (20_memory.md R64). -/
def Obligations.FetchedWordIsBigEndian : Prop :=
  ∀ s : State, s.fetchWord.toNat = (s.mem.read s.pc.toNat).toNat * 256 + (s.mem.read (s.pc.toNat + 1)).toNat

/-- A step runs the instruction the bytes at the pc decode to, on the state in which `cur` is the word and the pc
is two bytes on (00_scope.md R7, 20_memory.md R66). -/
def Obligations.StepRunsTheDecodedInstruction : Prop :=
  ∀ (s : State) (i : Instr), s.halt = .running → s.pc.toNat + 1 ≤ 0xFFF →
    decodeBytes [s.mem.read s.pc.toNat, s.mem.read (s.pc.toNat + 1)] = .ok (i, []) →
    step s = exec i { s with
      cur := wordOfBytes (s.mem.read s.pc.toNat) (s.mem.read (s.pc.toNat + 1)), pc := s.pc + 2#16 }

/-- Fetch at 0xFFF or above is AddressOutOfRange, with no word, the pc it tried, and `max(pc, 0x1000)`; pc and cur
stay (20_memory.md section 4; the reported address and the unchanged rest are the spec's decision D13). -/
def Obligations.FetchPastTheEndHalts : Prop :=
  ∀ s : State, s.halt = .running → 0xFFF ≤ s.pc.toNat →
    step s = .next { s with
      halt := .halted ⟨.addressOutOfRange, none, s.pc, some (max s.pc.toNat 0x1000)⟩ }

/-- A word that decodes to nothing is InvalidOpcode, reported with the word and the pc at fetch (60_exceptions.md
section 1; that fetch's writes stay and nothing else changes is the spec's decision D13). -/
def Obligations.InvalidWordHaltsWithWordAndPc : Prop :=
  ∀ (s : State) (e : DecodeError), s.halt = .running → s.pc.toNat + 1 ≤ 0xFFF →
    decode s.fetchWord = .error e →
    step s = .next { s with
      cur := s.fetchWord, pc := s.pc + 2#16,
      halt := .halted ⟨.invalidOpcode, some s.fetchWord, s.pc, none⟩ }

/-- A halted Machine ignores Step, no host action but a successful Reset ends the halt, and that one does. That
the halt is permanent is the spec's decision D13 (60_exceptions.md, R236). -/
def Obligations.HaltedMachineWaitsForReset : Prop :=
  ∀ (font : Font) (s : State) (r : FatalRecord), s.halt = .halted r →
    step s = .next s ∧
    (∀ a, (∀ image, a ≠ .reset image) → (hostAct font a s).1.halt = .halted r) ∧
    (∀ image : List Byte, image.length ≤ 0xE00 → (hostAct font (.reset image) s).1.halt = .running) ∧
    (∀ image : List Byte, 0xE00 < image.length → (hostAct font (.reset image) s).1 = s)

/-- A step has a next state from every state: it completes, halts, or is ignored; nothing faults or is refused
(00_scope.md R7; the model's choice of a next state for a fatal condition is notes/assumptions/1.md). -/
def Obligations.EveryStepHasANextState : Prop :=
  ∀ s : State, ∃ t, step s = .next t

/-- Fatal conditions are precise: an instruction that halts a running Machine changes the halt state alone, and
the record says which instruction it was. Which condition an instruction can raise is the table of R231; the
check-before-write order is the spec's decision D13, the key index and the overflow of I are D10 and D9. -/
def Obligations.FatalConditionsArePrecise : Prop :=
  ∀ (i : Instr) (s t : State), s.halt = .running → exec i s = .next t → t.halt ≠ .running →
    (i = .ret ∧ s.stack = [] ∧ t = s.HaltedBy .stackUnderflow none) ∨
    ((∃ nnn, i = .call nnn) ∧ 16 ≤ s.stack.length ∧ t = s.HaltedBy .stackOverflow none) ∨
    (checksIndex i = true ∧ ∃ a ≤ 0x100FE, t = s.HaltedBy .addressOutOfRange (some a))

/-! ## Control transfer -/

/-- RET pops the top into the pc, or is StackUnderflow before any change (40_control_flow.md, RET; the check before
any change is the spec's decision D13). -/
def Obligations.RetPopsOrUnderflows : Prop :=
  ∀ s : State,
    (∀ a rest, s.stack = a :: rest → exec .ret s = .next { s with pc := a, stack := rest }) ∧
    (s.stack = [] → exec .ret s = .next (s.HaltedBy .stackUnderflow none))

/-- JP nnn sets the pc and nothing else (40_control_flow.md R121). -/
def Obligations.JumpSetsThePc : Prop :=
  ∀ (s : State) (nnn : Addr12), ∃ target : Word, target.toNat = nnn.toNat ∧
    exec (.jp nnn) s = .next { s with pc := target }

/-- CALL pushes the pc, already past the instruction, and jumps; at depth 16 it is StackOverflow before any change
(40_control_flow.md, CALL; the check before any change is the spec's decision D13). -/
def Obligations.CallPushesOrOverflows : Prop :=
  ∀ (s : State) (nnn : Addr12),
    (s.stack.length < 16 → ∃ target : Word, target.toNat = nnn.toNat ∧
      exec (.call nnn) s = .next { s with pc := target, stack := s.pc :: s.stack }) ∧
    (16 ≤ s.stack.length → exec (.call nnn) s = .next (s.HaltedBy .stackOverflow none))

/-- A RET that balances a CALL restores the pc after the CALL and the stack, whatever the subroutine did to the
rest of the state (40_control_flow.md, RET and CALL; example E7). -/
def Obligations.ReturnUndoesCall : Prop :=
  ∀ (s t u : State) (nnn : Addr12), s.stack.length < 16 → exec (.call nnn) s = .next t → u.stack = t.stack →
    exec .ret u = .next { u with pc := s.pc, stack := s.stack }

/-- The four compare-and-skip instructions add 2 to the pc when their condition holds, and change nothing else
(40_control_flow.md R123 to R126). -/
def Obligations.SkipsCompareAndAdvanceThePc : Prop :=
  ∀ (s : State) (x y : Reg) (kk : Byte),
    exec (.seImm x kk) s = .next { s with pc := if s.reg x = kk then s.pc + 2#16 else s.pc } ∧
    exec (.sneImm x kk) s = .next { s with pc := if s.reg x ≠ kk then s.pc + 2#16 else s.pc } ∧
    exec (.seReg x y) s = .next { s with pc := if s.reg x = s.reg y then s.pc + 2#16 else s.pc } ∧
    exec (.sneReg x y) s = .next { s with pc := if s.reg x ≠ s.reg y then s.pc + 2#16 else s.pc }

/-- JP V0 sets the pc to V0 + nnn in full. That the sum is not reduced is the spec's decision D21
(40_control_flow.md, JP V0). -/
def Obligations.JumpWithOffsetAddsV0 : Prop :=
  ∀ (s : State) (nnn : Addr12), ∃ target : Word, target.toNat = (s.reg 0).toNat + nnn.toNat ∧
    exec (.jpV0 nnn) s = .next { s with pc := target }

/-- An instruction that is neither a transfer, nor a skip, nor the key wait leaves the pc where fetch put it
(10_state.md, table of R26). -/
def Obligations.OtherInstructionsLeaveThePc : Prop :=
  ∀ (i : Instr) (s t : State), writesPc i = false → exec i s = .next t → t.pc = s.pc

/-! ## Registers and ALU -/

/-- LD Vx, kk and LD Vx, Vy write V[x] alone (41_alu.md, LD Vx,kk and LD Vx,Vy). That LD Vx,Vy leaves VF is the
spec's decision D22 (notes/assumptions/15.md). -/
def Obligations.LoadsWriteTheRegisterAlone : Prop :=
  ∀ (s : State) (x y : Reg) (kk : Byte),
    (∃ t, exec (.ldImm x kk) s = .next t ∧ s.WritesReg t x kk) ∧
    (∃ t, exec (.ldReg x y) s = .next t ∧ s.WritesReg t x (s.reg y))

/-- ADD Vx, kk adds modulo 256 and writes V[x] alone; the carry is lost (41_alu.md R141). -/
def Obligations.AddImmediateWraps : Prop :=
  ∀ (s : State) (x : Reg) (kk : Byte), ∃ t b, exec (.addImm x kk) s = .next t ∧ s.WritesReg t x b ∧
    b.toNat = ((s.reg x).toNat + kk.toNat) % 256

/-- OR, AND, XOR combine bit by bit and write V[x] alone. That VF keeps its value is the spec's decision D22
(41_alu.md section 3). -/
def Obligations.LogicWritesTheRegisterAlone : Prop :=
  ∀ (s : State) (x y : Reg),
    (∃ t b, exec (.orReg x y) s = .next t ∧ s.WritesReg t x b ∧
      ∀ j, b.getLsbD j = ((s.reg x).getLsbD j || (s.reg y).getLsbD j)) ∧
    (∃ t b, exec (.andReg x y) s = .next t ∧ s.WritesReg t x b ∧
      ∀ j, b.getLsbD j = ((s.reg x).getLsbD j && (s.reg y).getLsbD j)) ∧
    (∃ t b, exec (.xorReg x y) s = .next t ∧ s.WritesReg t x b ∧
      ∀ j, b.getLsbD j = ((s.reg x).getLsbD j ^^ (s.reg y).getLsbD j))

/-- ADD Vx, Vy: the sum modulo 256, then the carry in VF, for every aliasing of x, y and F (41_alu.md, ADD Vx,Vy; the
order of the two writes, which shows for x = F alone, is the spec's decision D6). -/
def Obligations.AddWritesSumThenCarry : Prop :=
  ∀ (s : State) (x y : Reg), ∃ t b f, exec (.addReg x y) s = .next t ∧ s.WritesRegThenVf t x b f ∧
    b.toNat = ((s.reg x).toNat + (s.reg y).toNat) % 256 ∧
    f.toNat = (if (s.reg x).toNat + (s.reg y).toNat > 255 then 1 else 0)

/-- SUB and SUBN: the difference modulo 256, then VF = no borrow, for every aliasing (41_alu.md, SUB and SUBN; the
order of the two writes, which shows for x = F alone, is the spec's decision D6). -/
def Obligations.SubtractionsWriteDifferenceThenNoBorrow : Prop :=
  ∀ (s : State) (x y : Reg),
    (∃ t b f, exec (.sub x y) s = .next t ∧ s.WritesRegThenVf t x b f ∧
      (b.toNat : Int) = ((s.reg x).toNat - (s.reg y).toNat : Int) % 256 ∧
      f.toNat = (if (s.reg x).toNat ≥ (s.reg y).toNat then 1 else 0)) ∧
    (∃ t b f, exec (.subn x y) s = .next t ∧ s.WritesRegThenVf t x b f ∧
      (b.toNat : Int) = ((s.reg y).toNat - (s.reg x).toNat : Int) % 256 ∧
      f.toNat = (if (s.reg y).toNat ≥ (s.reg x).toNat then 1 else 0))

/-- SHR and SHL move V[x] by one bit, then VF takes the bit shifted out, and `y` does not matter. The shift in place
is the spec's decision D5, the order of the two writes D6 (41_alu.md, SHR and SHL). -/
def Obligations.ShiftsWriteResultThenBitOut : Prop :=
  ∀ (s : State) (x y : Reg),
    (∃ t b f, exec (.shr x y) s = .next t ∧ s.WritesRegThenVf t x b f ∧
      b.toNat = (s.reg x).toNat / 2 ∧ f.toNat = (s.reg x).toNat % 2) ∧
    (∃ t b f, exec (.shl x y) s = .next t ∧ s.WritesRegThenVf t x b f ∧
      b.toNat = (s.reg x).toNat * 2 % 256 ∧ f.toNat = (s.reg x).toNat / 128) ∧
    (∀ y', exec (.shr x y') s = exec (.shr x y) s ∧ exec (.shl x y') s = exec (.shl x y) s)

/-- RND writes a fresh draw masked by kk to V[x], whatever byte the source answers, and takes that draw from the
source. The draw as a free value is the spec's decision D17; its form, a counter, is notes/assumptions/4.md. -/
def Obligations.RandomByteIsMasked : Prop :=
  ∀ (s : State) (x : Reg) (kk : Byte), ∃ t, exec (.rnd x kk) s = .next t ∧
    t = { s with v := t.v, draws := s.draws + 1 } ∧
    ∀ z, t.reg z = if z = x then Config.randomByte s.draws &&& kk else s.reg z

/-- An instruction changes no general register but those R22 lists for it, the flag write to VF included; so VF is
written as a flag by ADD, SUB, SUBN, SHR, SHL and DRW only (10_state.md R22, R23; the flag of the logic operations
rests on D22). -/
def Obligations.InstructionsWriteOnlyTheirRegisters : Prop :=
  ∀ (i : Instr) (s t : State) (z : Reg), exec i s = .next t → writesReg i z = false → t.reg z = s.reg z

/-! ## Index register and memory -/

/-- LD I, nnn and LD F, Vx write I alone: the immediate, and five times the register without a mask
(42_index_memory.md R170, R172). -/
def Obligations.IndexLoadsWriteIAlone : Prop :=
  ∀ (s : State) (x : Reg) (nnn : Addr12),
    (∃ a : Word, a.toNat = nnn.toNat ∧ exec (.ldI nnn) s = .next { s with index := a }) ∧
    (∃ a : Word, a.toNat = 5 * (s.reg x).toNat ∧ exec (.ldF x) s = .next { s with index := a })

/-- ADD I, Vx adds without touching VF; a sum past 0xFFFF is AddressOutOfRange and I does not wrap, which is the
spec's decision D9 (42_index_memory.md, ADD I). -/
def Obligations.AddToIndexNeverWraps : Prop :=
  ∀ (s : State) (x : Reg),
    (s.index.toNat + (s.reg x).toNat ≤ 0xFFFF → ∃ a : Word, a.toNat = s.index.toNat + (s.reg x).toNat ∧
      exec (.addI x) s = .next { s with index := a }) ∧
    (0xFFFF < s.index.toNat + (s.reg x).toNat →
      exec (.addI x) s = .next (s.HaltedBy .addressOutOfRange (some (s.index.toNat + (s.reg x).toNat))))

/-- LD B stores hundreds, tens and ones at I, I + 1, I + 2 and nothing else, or is AddressOutOfRange before any
byte (42_index_memory.md, LD B; the check before any byte and the reported address are the spec's decision
D13). -/
def Obligations.BcdStoresThreeDigits : Prop :=
  ∀ (s : State) (x : Reg),
    (s.index.toNat + 2 ≤ 0xFFF → ∃ t, exec (.ldB x) s = .next t ∧ t = { s with mem := t.mem } ∧
      (t.mem.read (s.effectiveAddr 0)).toNat = (s.reg x).toNat / 100 ∧
      (t.mem.read (s.effectiveAddr 1)).toNat = (s.reg x).toNat / 10 % 10 ∧
      (t.mem.read (s.effectiveAddr 2)).toNat = (s.reg x).toNat % 10 ∧
      ∀ a, (∀ j < 3, a ≠ s.effectiveAddr j) → t.mem.read a = s.mem.read a) ∧
    (0xFFF < s.index.toNat + 2 →
      exec (.ldB x) s = .next (s.HaltedBy .addressOutOfRange (some (max s.index.toNat 0x1000))))

/-- LD [I], Vx stores V[0]..V[x] from I on and nothing else, or is AddressOutOfRange before any byte. That I stays
is the spec's decision D7, the check before any byte its D13 (42_index_memory.md, LD [I]). -/
def Obligations.DumpStoresV0ToVx : Prop :=
  ∀ (s : State) (x : Reg),
    (s.index.toNat + x.val ≤ 0xFFF → ∃ t, exec (.dump x) s = .next t ∧ t = { s with mem := t.mem } ∧
      (∀ z : Reg, z ≤ x → t.mem.read (s.effectiveAddr z.val) = s.reg z) ∧
      ∀ a, (∀ z : Reg, z ≤ x → a ≠ s.effectiveAddr z.val) → t.mem.read a = s.mem.read a) ∧
    (0xFFF < s.index.toNat + x.val →
      exec (.dump x) s = .next (s.HaltedBy .addressOutOfRange (some (max s.index.toNat 0x1000))))

/-- LD Vx, [I] loads V[0]..V[x] from I on and changes nothing else, memory and I included, or is
AddressOutOfRange before any register. That I stays is the spec's decision D7, the check before any register its
D13 (42_index_memory.md, LD Vx,[I]). -/
def Obligations.LoadFillsV0ToVx : Prop :=
  ∀ (s : State) (x : Reg),
    (s.index.toNat + x.val ≤ 0xFFF → ∃ t, exec (.load x) s = .next t ∧ t = { s with v := t.v } ∧
      ∀ z, t.reg z = if z ≤ x then s.mem.read (s.effectiveAddr z.val) else s.reg z) ∧
    (0xFFF < s.index.toNat + x.val →
      exec (.load x) s = .next (s.HaltedBy .addressOutOfRange (some (max s.index.toNat 0x1000))))

/-- A dump followed by a load with the same I and x restores the registers it covers, whatever else happened in
between that left the memory alone (42_index_memory.md R175; it rests on the spec's decision D7). -/
def Obligations.LoadAfterDumpRestoresRegisters : Prop :=
  ∀ (s t u : State) (x : Reg), s.index.toNat + x.val ≤ 0xFFF → exec (.dump x) s = .next t →
    u.mem = t.mem → u.index = s.index →
    ∃ r, exec (.load x) u = .next r ∧ ∀ z, z ≤ x → r.reg z = s.reg z

/-- A store is seen by every fetch after it, the very next included, as long as nothing else has been stored: after
LD [I],Vx or LD B,Vx the word fetched at any pc is made of what the store left at its two addresses, whichever of
them it covers (20_memory.md section 8). -/
def Obligations.StoreIsSeenByTheNextFetch : Prop :=
  ∀ (s t u : State) (x : Reg) (i : Instr), u.mem = t.mem → u.halt = .running → u.pc.toNat + 1 ≤ 0xFFF →
    (s.index.toNat + x.val ≤ 0xFFF → exec (.dump x) s = .next t →
      decode (wordOfBytes (s.byteAfterDump x u.pc.toNat) (s.byteAfterDump x (u.pc.toNat + 1))) = .ok i →
      step u = exec i { u with
        cur := wordOfBytes (s.byteAfterDump x u.pc.toNat) (s.byteAfterDump x (u.pc.toNat + 1)),
        pc := u.pc + 2#16 }) ∧
    (s.index.toNat + 2 ≤ 0xFFF → exec (.ldB x) s = .next t →
      decode (wordOfBytes (s.byteAfterBcd x u.pc.toNat) (s.byteAfterBcd x (u.pc.toNat + 1))) = .ok i →
      step u = exec i { u with
        cur := wordOfBytes (s.byteAfterBcd x u.pc.toNat) (s.byteAfterBcd x (u.pc.toNat + 1)),
        pc := u.pc + 2#16 })

/-- Equal contents are equal data: two memories in the canonical form that read the same everywhere are the same
list. The form is the model's (INVENTORY.md, State). -/
def Obligations.CanonicalMemoriesWithEqualReadsAreEqual : Prop :=
  ∀ m m' : Memory, m.wf = true → m'.wf = true → (∀ a, m.read a = m'.read a) → m = m'

/-! ## Display -/

/-- CLS unlights all 2048 cells and changes nothing else (43_display.md R190). -/
def Obligations.ClearUnlightsEveryCell : Prop :=
  ∀ s : State, ∃ t, exec .cls s = .next t ∧ t = { s with fb := t.fb } ∧
    ∀ r c, Framebuffer.cell t.fb r c = false

/-- DRW is its closed form: a cell ends lit exactly when it was lit or is covered by a 1 bit of the sprite, not
both; VF is 1 exactly when a covered cell was lit, and 0 otherwise; nothing else changes (43_display.md; the row
modulus follows its conflict C3, n = 0 and the collision on the old framebuffer its derived R195 and R196). -/
def Obligations.DrawXorsTheSpriteAndReportsCollision : Prop :=
  ∀ (s : State) (x y : Reg) (n : Fin 16), n.val = 0 ∨ s.index.toNat + n.val - 1 ≤ 0xFFF →
    ∃ t, exec (.drw x y n) s = .next t ∧ t = { s with fb := t.fb, v := t.v } ∧
      (∀ r c, Framebuffer.cell t.fb r c = true ↔
        (Framebuffer.cell s.fb r c = true ↔ ¬ s.SpriteCovers x y n.val r c)) ∧
      (t.reg vf = 1#8 ∨ t.reg vf = 0#8) ∧
      (t.reg vf = 1#8 ↔ ∃ r c, Framebuffer.cell s.fb r c = true ∧ s.SpriteCovers x y n.val r c) ∧
      ∀ z, z ≠ vf → t.reg z = s.reg z

/-- DRW with a sprite whose last byte lies above 0xFFF is AddressOutOfRange before any cell or VF changes
(43_display.md, DRW; the check before any change and the reported address are the spec's decision D13). -/
def Obligations.SpritePastTheEndHalts : Prop :=
  ∀ (s : State) (x y : Reg) (n : Fin 16), 1 ≤ n.val → 0xFFF < s.index.toNat + n.val - 1 →
    exec (.drw x y n) s = .next (s.HaltedBy .addressOutOfRange (some (max s.index.toNat 0x1000)))

/-- Drawing the same sprite twice at the same place restores the display, and the second draw reports a collision
exactly when the sprite covers a cell that is lit after the first (43_display.md, DRW; example E5). -/
def Obligations.DrawingTwiceRestoresTheDisplay : Prop :=
  ∀ (s t u : State) (x y : Reg) (n : Fin 16), x ≠ vf → y ≠ vf →
    n.val = 0 ∨ s.index.toNat + n.val - 1 ≤ 0xFFF →
    exec (.drw x y n) s = .next t → exec (.drw x y n) t = .next u →
    u.fb = s.fb ∧
    (u.reg vf = 1#8 ↔ ∃ r c, Framebuffer.cell t.fb r c = true ∧ s.SpriteCovers x y n.val r c)

/-! ## Keypad and timers -/

/-- SKP and SKNP skip on the slot V[x] names and change nothing but the pc; a value above 15 names no slot and is
AddressOutOfRange, which is the spec's decision D10 (44_keypad_timers.md, SKP and SKNP). -/
def Obligations.KeySkipsTestTheNamedSlot : Prop :=
  ∀ (s : State) (x : Reg),
    (∀ k : Key, (s.reg x).toNat = k.val →
      exec (.skp x) s = .next { s with pc := if s.keyDown k then s.pc + 2#16 else s.pc } ∧
      exec (.sknp x) s = .next { s with pc := if s.keyDown k then s.pc else s.pc + 2#16 }) ∧
    (15 < (s.reg x).toNat →
      exec (.skp x) s = .next (s.HaltedBy .addressOutOfRange (some (s.reg x).toNat)) ∧
      exec (.sknp x) s = .next (s.HaltedBy .addressOutOfRange (some (s.reg x).toNat)))

/-- LD Vx, DT, LD DT, Vx and LD ST, Vx move one byte and change nothing else (44_keypad_timers.md R212, R214,
R215). -/
def Obligations.TimerInstructionsMoveOneByte : Prop :=
  ∀ (s : State) (x : Reg),
    (∃ t, exec (.ldVxDt x) s = .next t ∧ s.WritesReg t x s.dt) ∧
    exec (.ldDtVx x) s = .next { s with dt := s.reg x } ∧
    exec (.ldStVx x) s = .next { s with st := s.reg x }

/-- LD Vx, K: with no key down the pc goes back by 2; with keys down V[x] takes the number of one of them, and of
that one when it is the only one. Which of several keys is KEY_PICK's, the spec's open parameter D11
(44_keypad_timers.md, LD Vx,K; notes/assumptions/3.md). -/
def Obligations.KeyWaitRewindsOrStoresAPressedKey : Prop :=
  ∀ (s : State) (x : Reg),
    ((∀ k, s.keyDown k = false) → exec (.ldVxK x) s = .next { s with pc := s.pc - 2#16 }) ∧
    (∀ k, s.keyDown k = true → ∃ t p, exec (.ldVxK x) s = .next t ∧ s.keyDown p = true ∧
      s.WritesReg t x (BitVec.ofNat 8 p.val)) ∧
    (∀ k, s.keyDown k = true → (∀ p, s.keyDown p = true → p = k) →
      ∃ t, exec (.ldVxK x) s = .next t ∧ s.WritesReg t x (BitVec.ofNat 8 k.val))

/-- A key wait with no key down repeats: any number of steps changes nothing but `cur`, which holds the instruction
(44_keypad_timers.md, LD Vx,K; example E8). -/
def Obligations.KeyWaitRepeatsWithoutAKey : Prop :=
  ∀ (s : State) (x : Reg) (n : Nat), s.halt = .running → s.pc.toNat + 1 ≤ 0xFFF →
    decode s.fetchWord = .ok (.ldVxK x) → (∀ k, s.keyDown k = false) →
    Sys2Proof.core.run (n + 1) s = .next { s with cur := s.fetchWord }

/-- The keypad is read by SKP, SKNP and LD Vx,K alone: every other instruction does the same whatever the slots
hold, and leaves them as they are (10_state.md, keypad; 44_keypad_timers.md). -/
def Obligations.OtherInstructionsIgnoreTheKeypad : Prop :=
  ∀ (i : Instr) (s t : State) (keys : Keypad), (∀ x, i ≠ .skp x ∧ i ≠ .sknp x ∧ i ≠ .ldVxK x) →
    exec i s = .next t → exec i { s with keys := keys } = .next { t with keys := keys }

/-- ST is read by no instruction: a step that runs LD ST,Vx overwrites it, so it does the same from any ST, and every
other step carries it along unread (10_state.md, sound timer). -/
def Obligations.NoStepReadsTheSoundTimer : Prop :=
  ∀ (s t : State) (b : Byte), step s = .next t →
    (∀ x, s.Runs (.ldStVx x) → t.st = s.reg x ∧ step { s with st := b } = .next t) ∧
    ((∀ x, ¬ s.Runs (.ldStVx x)) → t.st = s.st ∧ step { s with st := b } = .next { t with st := b })

/-- Each piece of state outside the general registers is written by its own instructions alone; no instruction
writes the keypad or `cur` (10_state.md, "written by" of the table R45; 20_memory.md R62). That the dump and the load
leave I is the spec's decision D7 (notes/assumptions/14.md), that a fatal condition changes the halt state alone its
D13 (notes/assumptions/20.md); ADD I's and the key skips' conditions are D9 and D10. -/
def Obligations.EachRegisterHasItsWriters : Prop :=
  ∀ (i : Instr) (s t : State), exec i s = .next t →
    t.keys = s.keys ∧ t.cur = s.cur ∧
    (t.pc ≠ s.pc → writesPc i = true) ∧
    (t.halt ≠ s.halt → i = .ret ∨ (∃ nnn, i = .call nnn) ∨ checksIndex i = true) ∧
    (t.dt ≠ s.dt → ∃ x, i = .ldDtVx x) ∧
    (t.st ≠ s.st → ∃ x, i = .ldStVx x) ∧
    (t.index ≠ s.index → (∃ nnn, i = .ldI nnn) ∨ (∃ x, i = .addI x) ∨ (∃ x, i = .ldF x)) ∧
    (t.stack ≠ s.stack → i = .ret ∨ ∃ nnn, i = .call nnn) ∧
    (t.mem ≠ s.mem → (∃ x, i = .ldB x) ∨ (∃ x, i = .dump x)) ∧
    (t.fb ≠ s.fb → i = .cls ∨ ∃ x y n, i = .drw x y n) ∧
    (t.draws ≠ s.draws → ∃ x kk, i = .rnd x kk)

/-! ## Reset and the host -/

/-- After Reset with an image of at most 0xE00 bytes every piece of state but `cur` has the value of the table
(10_state.md R43), for every value of the parameter FONT: the registers, I, DT and ST zero, the pc 0x0200, the stack
empty, every cell unlit, every key up, FONT at 0x000..0x04F, the image from 0x200, zero elsewhere, Running. -/
def Obligations.ResetLeavesTheSpecifiedState : Prop :=
  ∀ (font : Font) (image : List Byte) (s : State), image.length ≤ 0xE00 →
    ∃ t, hostAct font (.reset image) s = (t, .done) ∧
      (∀ z, t.reg z = 0#8) ∧ t.index = 0#16 ∧ t.pc = 0x0200#16 ∧ t.stack = [] ∧
      (∀ r c, Framebuffer.cell t.fb r c = false) ∧ t.dt = 0#8 ∧ t.st = 0#8 ∧ (∀ k, t.keyDown k = false) ∧
      (∀ j : Fin 80, t.mem.read j.val = font.get j) ∧
      (∀ a, 0x050 ≤ a → a < 0x200 → t.mem.read a = 0#8) ∧
      (∀ j, j < image.length → t.mem.read (0x200 + j) = image.getD j 0#8) ∧
      (∀ a, 0x200 + image.length ≤ a → a ≤ 0xFFF → t.mem.read a = 0#8) ∧
      t.halt = .running

/-- A Reset with a longer image is refused with LoadError, code 1, and its length, and nothing changes. The code is
the spec's decision D14, the unchanged state its D24 (70_reset_and_hazards.md section 1, 60_exceptions.md section
1). -/
def Obligations.TooLongAnImageIsRefused : Prop :=
  ∀ (font : Font) (image : List Byte) (s : State), 0xE00 < image.length →
    hostAct font (.reset image) s = (s, .loadError image.length) ∧ Cause.loadError.code = 1 ∧
    (hostAct font (.reset image) s).2.cause = some .loadError

/-- The model's reset state is what Reset with the empty image leaves of any state on hardware with the default
FONT (notes/assumptions/2.md); `cur` there is the model's choice (notes/assumptions/5.md) and `draws` its own counter
(notes/assumptions/4.md). -/
def Obligations.ResetStateIsResetWithTheEmptyImage : Prop :=
  ∀ s : State, hostAct defaultFont (.reset []) s = ({ State.reset with draws := s.draws }, .done)

/-- SetKeys writes all 16 slots and nothing else (60_exceptions.md R248). -/
def Obligations.SetKeysWritesAllSlots : Prop :=
  ∀ (font : Font) (s : State) (keys : Keypad), ∃ t, hostAct font (.setKeys keys) s = (t, .done) ∧
    t = { s with keys := t.keys } ∧ ∀ k, t.keyDown k = keys.get k

/-- Tick takes one from each timer that is above 0, each on its own, and changes nothing else (60_exceptions.md
R249). -/
def Obligations.TickCountsBothTimersDown : Prop :=
  ∀ (font : Font) (s : State), ∃ t, hostAct font .tick s = (t, .done) ∧ t = { s with dt := t.dt, st := t.st } ∧
    t.dt.toNat = s.dt.toNat - 1 ∧ t.st.toNat = s.st.toNat - 1

/-- ReadDisplay returns the grid and ReadTimers the two counts; both change nothing (60_exceptions.md R250,
R251). -/
def Obligations.ReadsReturnAndChangeNothing : Prop :=
  ∀ (font : Font) (s : State), hostAct font .readDisplay s = (s, .display s.fb) ∧
    hostAct font .readTimers s = (s, .timers s.dt s.st)

/-- The output ports show the display, the timers and the record of a halted Machine with its code, and `load_error`
tells whether the last Reset was refused. The port list is the spec's decision D15, the codes its D14
(60_exceptions.md, ports); what `fault_pc` shows while running is not stated here (notes/assumptions/28.md). -/
def Obligations.PortsShowTheRecordAndTheLastReset : Prop :=
  ∀ (font : Font) (p q : Platform),
    (p.ports.fb = p.machine.fb ∧ p.ports.dt = p.machine.dt ∧ p.ports.st = p.machine.st) ∧
    (p.machine.halt = .running → p.ports.halted = false ∧ p.ports.faultKind = 0) ∧
    (∀ r, p.machine.halt = .halted r → p.ports.halted = true ∧ p.ports.faultWord = r.word ∧
      p.ports.faultPc = some r.fpc ∧ p.ports.faultAddr = r.addr ∧
      (r.kind = .addressOutOfRange → p.ports.faultKind = 2) ∧ (r.kind = .stackUnderflow → p.ports.faultKind = 3) ∧
      (r.kind = .stackOverflow → p.ports.faultKind = 4) ∧ (r.kind = .invalidOpcode → p.ports.faultKind = 5)) ∧
    (∀ image : List Byte, (p.act font (.reset image)).1.ports.loadError = true ↔ 0xE00 < image.length) ∧
    (∀ a, (∀ image, a ≠ .reset image) → (p.act font a).1.ports.loadError = p.ports.loadError) ∧
    (move font .step p = .next q → q.ports.loadError = p.ports.loadError)

/-- The terminal idiom: a jump to itself changes nothing but `cur`, which holds it. The idiom is the spec's
convention D23 (70_reset_and_hazards.md section 5). -/
def Obligations.TerminalStateRepeats : Prop :=
  ∀ s : State, s.Terminal → step s = .next { s with cur := s.fetchWord }

/-! ## Invariants -/

/-- The invariant holds at reset. -/
def Obligations.ResetStateMeetsTheInvariant : Prop := State.reset.Inv

/-- Every step keeps the invariant: the memory canonical, the pc at most 0x10FE, at most 16 return addresses each
in 0x0002..0x1000, and a halted Machine with a legal record (10_state.md R29, R32, R45; 60_exceptions.md R231,
R237, R238; the canonical form is the model's). -/
def Obligations.StepKeepsTheInvariant : Prop :=
  ∀ s t : State, s.Inv → step s = .next t → t.Inv

/-- Every host action keeps the invariant, Reset with any image included. -/
def Obligations.HostActionsKeepTheInvariant : Prop :=
  ∀ (font : Font) (a : HostAction) (s : State), s.Inv → (hostAct font a s).1.Inv

/-- Every run, with any host actions between its steps, ends in a state that meets the invariant, and none is cut
short (60_exceptions.md R253; 10_state.md R29). -/
def Obligations.EveryRunMeetsTheInvariant : Prop :=
  ∀ (font : Font) (es : List Event) (p : Platform), p.machine.Inv →
    ∃ q, run font es p = .next q ∧ q.machine.Inv
end

