-- ==== Sys2Proof/Laws/Decode.lean ====
section
/-! SUPPORT. What each field of a packed word is, and which rows of the opcode table exclude each other. -/

namespace Sys2Proof

/-! ## Fields of packed words -/

theorem toNat_packXkk (op : BitVec 4) (x : Reg) (kk : Byte) :
    (packXkk op x kk).toNat = op.toNat * 4096 + x.val * 256 + kk.toNat := by
  have hx := x.isLt
  have hk := kk.isLt
  simp only [packXkk, BitVec.toNat_append, BitVec.toNat_ofNat]
  rw [← Nat.shiftLeft_add_eq_or_of_lt hk, ← Nat.shiftLeft_add_eq_or_of_lt (by omega : x.val % 2 ^ 4 < 2 ^ 4)]
  simp only [Nat.shiftLeft_eq]
  omega

theorem toNat_packXyn (op : BitVec 4) (x y : Reg) (n : BitVec 4) :
    (packXyn op x y n).toNat = op.toNat * 4096 + x.val * 256 + y.val * 16 + n.toNat := by
  have hx := x.isLt
  have hy := y.isLt
  have hn := n.isLt
  simp only [packXyn, BitVec.toNat_append, BitVec.toNat_ofNat]
  rw [← Nat.shiftLeft_add_eq_or_of_lt hn, ← Nat.shiftLeft_add_eq_or_of_lt (by omega : y.val % 2 ^ 4 < 2 ^ 4),
    ← Nat.shiftLeft_add_eq_or_of_lt (by omega : x.val % 2 ^ 4 < 2 ^ 4)]
  simp only [Nat.shiftLeft_eq]
  omega

theorem toNat_packNnn (op : BitVec 4) (nnn : Addr12) : (packNnn op nnn).toNat = op.toNat * 4096 + nnn.toNat := by
  simp only [packNnn, BitVec.toNat_append]
  rw [← Nat.shiftLeft_add_eq_or_of_lt nnn.isLt]
  simp only [Nat.shiftLeft_eq]

/-- The word of two bytes as a number (R64). -/
theorem toNat_wordOfBytes (hi lo : Byte) : (wordOfBytes hi lo).toNat = hi.toNat * 256 + lo.toNat := by
  simp only [wordOfBytes, BitVec.toNat_append]
  rw [← Nat.shiftLeft_add_eq_or_of_lt lo.isLt]
  simp only [Nat.shiftLeft_eq]

/-! ## Fields of a word as numbers -/

theorem toNat_fieldOp (w : Word) : (fieldOp w).toNat = w.toNat / 4096 := by
  simp only [fieldOp, BitVec.extractLsb'_toNat, Nat.shiftRight_eq_div_pow]
  omega

theorem val_fieldX (w : Word) : (fieldX w).val = w.toNat / 256 % 16 := by
  simp only [fieldX, BitVec.extractLsb'_toNat, Nat.shiftRight_eq_div_pow]

theorem val_fieldY (w : Word) : (fieldY w).val = w.toNat / 16 % 16 := by
  simp only [fieldY, BitVec.extractLsb'_toNat, Nat.shiftRight_eq_div_pow]

theorem val_fieldN (w : Word) : (fieldN w).val = w.toNat % 16 := by
  simp only [fieldN, BitVec.extractLsb'_toNat, Nat.shiftRight_zero]

theorem toNat_fieldKk (w : Word) : (fieldKk w).toNat = w.toNat % 256 := by
  simp only [fieldKk, BitVec.extractLsb'_toNat, Nat.shiftRight_zero]

theorem toNat_fieldNnn (w : Word) : (fieldNnn w).toNat = w.toNat % 4096 := by
  simp only [fieldNnn, BitVec.extractLsb'_toNat, Nat.shiftRight_zero]

@[simp] theorem fieldOp_packNnn (op : BitVec 4) (nnn : Addr12) : fieldOp (packNnn op nnn) = op := by
  apply BitVec.eq_of_toNat_eq
  rw [toNat_fieldOp, toNat_packNnn]
  omega

@[simp] theorem fieldNnn_packNnn (op : BitVec 4) (nnn : Addr12) : fieldNnn (packNnn op nnn) = nnn := by
  apply BitVec.eq_of_toNat_eq
  rw [toNat_fieldNnn, toNat_packNnn]
  omega

@[simp] theorem fieldOp_packXkk (op : BitVec 4) (x : Reg) (kk : Byte) : fieldOp (packXkk op x kk) = op := by
  apply BitVec.eq_of_toNat_eq
  rw [toNat_fieldOp, toNat_packXkk]
  omega

@[simp] theorem fieldX_packXkk (op : BitVec 4) (x : Reg) (kk : Byte) : fieldX (packXkk op x kk) = x := by
  apply Fin.ext
  rw [val_fieldX, toNat_packXkk]
  omega

@[simp] theorem fieldKk_packXkk (op : BitVec 4) (x : Reg) (kk : Byte) : fieldKk (packXkk op x kk) = kk := by
  apply BitVec.eq_of_toNat_eq
  rw [toNat_fieldKk, toNat_packXkk]
  omega

@[simp] theorem fieldOp_packXyn (op : BitVec 4) (x y : Reg) (n : BitVec 4) : fieldOp (packXyn op x y n) = op := by
  apply BitVec.eq_of_toNat_eq
  rw [toNat_fieldOp, toNat_packXyn]
  omega

@[simp] theorem fieldX_packXyn (op : BitVec 4) (x y : Reg) (n : BitVec 4) : fieldX (packXyn op x y n) = x := by
  apply Fin.ext
  rw [val_fieldX, toNat_packXyn]
  omega

@[simp] theorem fieldY_packXyn (op : BitVec 4) (x y : Reg) (n : BitVec 4) : fieldY (packXyn op x y n) = y := by
  apply Fin.ext
  rw [val_fieldY, toNat_packXyn]
  omega

theorem val_fieldN_packXyn (op : BitVec 4) (x y : Reg) (n : BitVec 4) :
    (fieldN (packXyn op x y n)).val = n.toNat := by
  rw [val_fieldN, toNat_packXyn]
  omega

theorem fieldOp_and (w m : Word) : fieldOp (w &&& m) = fieldOp w &&& fieldOp m := by
  simp only [fieldOp, BitVec.extractLsb'_and]

theorem fieldKk_and (w m : Word) : fieldKk (w &&& m) = fieldKk w &&& fieldKk m := by
  simp only [fieldKk, BitVec.extractLsb'_and]

theorem val_fieldN_and (w m : Word) : (fieldN (w &&& m)).val = (fieldN w).val &&& (fieldN m).val := by
  simp only [fieldN, BitVec.extractLsb'_and, BitVec.toNat_and]

/-! ## Rows -/

/-- The conjunction of two concatenations, part by part. -/
theorem append_and_append' {m n : Nat} (a c : BitVec m) (b d : BitVec n) :
    (a ++ b) &&& (c ++ d) = (a &&& c) ++ (b &&& d) := by
  apply BitVec.eq_of_getLsbD_eq
  intro i _
  simp only [BitVec.getLsbD_and, BitVec.getLsbD_append]
  split <;> rfl

/-- A row whose mask fixes the family only selects every word of that family. -/
theorem selects_packNnn (op : BitVec 4) (nnn : Addr12) (name : String) :
    OpcodeRow.selects ⟨name, 0xF000#16, op ++ 0#12⟩ (packNnn op nnn) = true := by
  simp only [OpcodeRow.selects, beq_iff_eq, packNnn]
  rw [show (0xF000#16 : Word) = 0xF#4 ++ 0x000#12 by decide, append_and_append']
  simp only [show (0xF#4 : BitVec 4) = BitVec.allOnes 4 by decide, BitVec.and_allOnes, BitVec.and_zero]

theorem selects_packXkk (op : BitVec 4) (x : Reg) (kk : Byte) (name : String) :
    OpcodeRow.selects ⟨name, 0xF000#16, op ++ 0#12⟩ (packXkk op x kk) = true := by
  have h : packXkk op x kk = packNnn op (BitVec.ofNat 4 x.val ++ kk) := by
    apply BitVec.eq_of_toNat_eq
    rw [toNat_packXkk, toNat_packNnn, BitVec.toNat_append, ← Nat.shiftLeft_add_eq_or_of_lt kk.isLt]
    simp only [BitVec.toNat_ofNat, Nat.shiftLeft_eq]
    omega
  rw [h]
  exact selects_packNnn op _ name

/-- A row whose mask leaves out the register field only selects its word for every register. -/
theorem selects_packX (op : BitVec 4) (x : Reg) (kk : Byte) (name : String) :
    OpcodeRow.selects ⟨name, 0xF0FF#16, op ++ 0#4 ++ kk⟩ (packXkk op x kk) = true := by
  simp only [OpcodeRow.selects, beq_iff_eq, packXkk]
  rw [show (0xF0FF#16 : Word) = 0xF#4 ++ 0x0#4 ++ 0xFF#8 by decide, append_and_append',
    append_and_append']
  simp only [show (0xF#4 : BitVec 4) = BitVec.allOnes 4 by decide,
    show (0xFF#8 : BitVec 8) = BitVec.allOnes 8 by decide, BitVec.and_allOnes, BitVec.and_zero]

/-- A row whose mask leaves out both register fields selects its word for every pair of registers. -/
theorem selects_packXy (op : BitVec 4) (x y : Reg) (n : BitVec 4) (name : String) :
    OpcodeRow.selects ⟨name, 0xF00F#16, op ++ 0#8 ++ n⟩ (packXyn op x y n) = true := by
  have h : packXyn op x y n = op ++ (BitVec.ofNat 8 (x.val * 16 + y.val)) ++ n := by
    apply BitVec.eq_of_toNat_eq
    rw [toNat_packXyn]
    simp only [BitVec.toNat_append, BitVec.toNat_ofNat]
    have hn := n.isLt
    have hx := x.isLt
    have hy := y.isLt
    rw [← Nat.shiftLeft_add_eq_or_of_lt hn,
      ← Nat.shiftLeft_add_eq_or_of_lt (by omega : (x.val * 16 + y.val) % 2 ^ 8 < 2 ^ 8)]
    simp only [Nat.shiftLeft_eq]
    omega
  simp only [OpcodeRow.selects, beq_iff_eq, h]
  rw [show (0xF00F#16 : Word) = 0xF#4 ++ 0x00#8 ++ 0xF#4 by decide, append_and_append',
    append_and_append']
  simp only [show (0xF#4 : BitVec 4) = BitVec.allOnes 4 by decide, BitVec.and_allOnes, BitVec.and_zero]

theorem selects_packXyn (op : BitVec 4) (x y : Reg) (n : BitVec 4) (name : String) :
    OpcodeRow.selects ⟨name, 0xF000#16, op ++ 0#12⟩ (packXyn op x y n) = true := by
  have h : packXyn op x y n = packXkk op x (BitVec.ofNat 8 (y.val * 16 + n.toNat)) := by
    apply BitVec.eq_of_toNat_eq
    rw [toNat_packXyn, toNat_packXkk]
    simp only [BitVec.toNat_ofNat]
    have hy := y.isLt
    have hn := n.isLt
    omega
  rw [h]
  exact selects_packXkk op x _ name

/-- No word selects two rows of the table: any two rows differ in a bit that both masks fix (R94). -/
theorem opcodeTable_disjoint :
    opcodeTable.Pairwise fun r q => (r.pattern ^^^ q.pattern) &&& (r.mask &&& q.mask) ≠ 0#16 := by
  decide

end Sys2Proof
end

