-- ==== Sys2Proof/Laws/Memory.lean ====
section
/-! SUPPORT. The laws of the memory: what a read answers after a write, and that every operation keeps the
canonical form. -/

namespace Sys2Proof.Machine

/-! ## Read after write -/

theorem Memory.read_insert (m : Memory) (a c : Nat) (b : Byte) :
    (m.insert a b).read c = if c = a then b else m.read c := by
  induction m with
  | nil =>
    by_cases h : a = c
    · simp [Memory.insert, Memory.read, h]
    · simp [Memory.insert, Memory.read, h, Ne.symm h]
  | cons e rest ih =>
    obtain ⟨k, d⟩ := e
    simp only [Memory.insert]
    by_cases h : a = c
    · subst h
      split
      · simp [Memory.read]
      · split
        · simp [Memory.read]
        · have hk : ¬ k = a := by omega
          simp [Memory.read, ih, hk]
    · split
      · simp [Memory.read, h, Ne.symm h]
      · split
        · have hk : ¬ k = c := by omega
          simp [Memory.read, h, Ne.symm h, hk]
        · simp [Memory.read, ih, Ne.symm h]

theorem Memory.read_erase (m : Memory) (a c : Nat) :
    (m.erase a).read c = if c = a then unlistedByte a else m.read c := by
  induction m with
  | nil => by_cases h : c = a <;> simp [Memory.erase, Memory.read, h]
  | cons e rest ih =>
    obtain ⟨k, d⟩ := e
    simp only [Memory.erase] at ih
    by_cases hk : k = a
    · by_cases h : c = a
      · simp_all [Memory.erase]
      · have : a ≠ c := fun e => h e.symm
        simp_all [Memory.erase, Memory.read]
    · by_cases h : k = c <;> simp_all [Memory.erase, Memory.read]

/-- A read after a write: the byte written at its address, the old byte at every other. -/
@[simp] theorem Memory.read_write (m : Memory) (a c : Nat) (b : Byte) :
    (m.write a b).read c = if c = a then b else m.read c := by
  unfold Memory.write
  split
  · rename_i h
    simp [Memory.read_erase, h]
  · exact Memory.read_insert m a c b

/-- A read after consecutive bytes are written: the byte of its place in the list, or the old byte outside. -/
theorem Memory.read_writeBytes (m : Memory) (a c : Nat) (bs : List Byte) :
    (m.writeBytes a bs).read c = if a ≤ c ∧ c < a + bs.length then bs.getD (c - a) 0#8 else m.read c := by
  induction bs generalizing m a with
  | nil => simp only [Memory.writeBytes, List.length_nil]; rw [if_neg (by omega)]
  | cons b bs ih =>
    rw [Memory.writeBytes, ih, Memory.read_write, List.length_cons]
    by_cases h1 : c = a
    · subst h1
      simp
    · by_cases h2 : a + 1 ≤ c ∧ c < a + 1 + bs.length
      · rw [if_pos h2, if_pos (by omega)]
        obtain ⟨j, rfl⟩ : ∃ j, c = a + 1 + j := ⟨c - (a + 1), by omega⟩
        simp only [Nat.add_sub_cancel_left, show a + 1 + j - a = j + 1 by omega, List.getD_cons_succ]
      · rw [if_neg h2, if_neg h1, if_neg (by omega)]

@[simp] theorem Memory.length_readBytes (m : Memory) (a k : Nat) : (m.readBytes a k).length = k := by
  induction k generalizing a with
  | zero => rfl
  | succ k ih => simp [Memory.readBytes, ih]

theorem Memory.getD_readBytes (m : Memory) (a k j : Nat) (h : j < k) (d : Byte) :
    (m.readBytes a k).getD j d = m.read (a + j) := by
  induction k generalizing a j with
  | zero => omega
  | succ k ih =>
    cases j with
    | zero => simp [Memory.readBytes]
    | succ j =>
      rw [Memory.readBytes, List.getD_cons_succ, ih (a + 1) j (by omega)]
      congr 1
      omega

theorem Memory.read_congr_bytes {m m' : Memory} {a k : Nat} (h : ∀ j, j < k → m.read (a + j) = m'.read (a + j)) :
    m.readBytes a k = m'.readBytes a k := by
  induction k generalizing a with
  | zero => rfl
  | succ k ih =>
    simp only [Memory.readBytes]
    rw [show m.read a = m'.read a from h 0 (by omega)]
    rw [ih fun j hj => by have := h (j + 1) (by omega); rwa [show a + (j + 1) = a + 1 + j by omega] at this]

/-! ## The canonical form -/

@[simp] theorem Memory.wf_nil : Memory.wf [] = true := rfl

theorem Memory.wfFrom_mono {lo hi : Nat} {m : Memory} (h : lo ≤ hi) (w : Memory.wfFrom hi m = true) :
    Memory.wfFrom lo m = true := by
  cases m with
  | nil => rfl
  | cons e rest =>
    obtain ⟨k, d⟩ := e
    simp only [Memory.wfFrom, Bool.and_eq_true, decide_eq_true_eq] at w ⊢
    exact ⟨⟨⟨by omega, w.1.1.2⟩, w.1.2⟩, w.2⟩

theorem Memory.wfFrom_insert {lo a : Nat} {m : Memory} {b : Byte} (w : Memory.wfFrom lo m = true) (hlo : lo ≤ a)
    (ha : a < memSize) (hb : b ≠ unlistedByte a) : Memory.wfFrom lo (m.insert a b) = true := by
  induction m generalizing lo with
  | nil => simp [Memory.insert, Memory.wfFrom, hlo, ha, hb]
  | cons e rest ih =>
    obtain ⟨k, d⟩ := e
    simp only [Memory.wfFrom, Bool.and_eq_true, decide_eq_true_eq] at w
    simp only [Memory.insert]
    split
    · simp [Memory.wfFrom, hlo, ha, hb, w.1.1.2, w.1.2, w.2]
      omega
    · split
      · subst_vars
        simp [Memory.wfFrom, hlo, ha, hb, w.2]
      · simp only [Memory.wfFrom, Bool.and_eq_true, decide_eq_true_eq]
        exact ⟨w.1, ih w.2 (by omega)⟩

theorem Memory.wfFrom_erase {lo a : Nat} {m : Memory} (w : Memory.wfFrom lo m = true) :
    Memory.wfFrom lo (m.erase a) = true := by
  induction m generalizing lo with
  | nil => rfl
  | cons e rest ih =>
    obtain ⟨k, d⟩ := e
    simp only [Memory.wfFrom, Bool.and_eq_true, decide_eq_true_eq] at w
    have ih' := ih w.2
    simp only [Memory.erase] at ih' ⊢
    rw [List.filter_cons]
    split
    · simp only [Memory.wfFrom, Bool.and_eq_true, decide_eq_true_eq]
      exact ⟨w.1, ih'⟩
    · exact Memory.wfFrom_mono (by omega) ih'

/-- A write inside the memory keeps the canonical form. -/
theorem Memory.wf_write {m : Memory} {a : Nat} {b : Byte} (w : m.wf = true) (ha : a < memSize) :
    (m.write a b).wf = true := by
  unfold Memory.write
  split
  · exact Memory.wfFrom_erase w
  · exact Memory.wfFrom_insert w (Nat.zero_le a) ha ‹_›

/-- Consecutive writes inside the memory keep the canonical form. -/
theorem Memory.wf_writeBytes {m : Memory} {a : Nat} {bs : List Byte} (w : m.wf = true)
    (h : a + bs.length ≤ memSize) : (m.writeBytes a bs).wf = true := by
  induction bs generalizing m a with
  | nil => exact w
  | cons b bs ih =>
    rw [List.length_cons] at h
    exact ih (Memory.wf_write w (by omega)) (by omega)

end Sys2Proof.Machine
end

