-- ==== Sys2Proof/Laws/State.lean ====
section
/-! SUPPORT. One lemma per field per update of the state, so that no proof unfolds a record update, and what the
register file reads after each. -/

namespace Sys2Proof.Machine

/-! ## The registers -/

theorem State.ext_of_fields {s t : State} (h : s.v = t.v ∧ s.index = t.index ∧ s.pc = t.pc ∧ s.stack = t.stack ∧
    s.fb = t.fb ∧ s.dt = t.dt ∧ s.st = t.st ∧ s.keys = t.keys ∧ s.cur = t.cur ∧ s.halt = t.halt ∧ s.mem = t.mem ∧
    s.draws = t.draws) : s = t := by
  cases s; cases t; simp_all

@[simp] theorem State.reg_setReg (s : State) (x z : Reg) (b : Byte) :
    (s.setReg x b).reg z = if z = x then b else s.reg z := by
  simp only [State.reg, State.setReg, Vector.get_eq_getElem, Vector.getElem_set, Fin.ext_iff, eq_comm]

theorem State.reg_eq_of_v_eq {s t : State} (h : s.v = t.v) (z : Reg) : s.reg z = t.reg z := by
  simp only [State.reg, h]

/-! ## `setReg` -/

@[simp] theorem State.setReg_v (s : State) (x : Reg) (b : Byte) : (s.setReg x b).v = s.v.set x b := rfl
@[simp] theorem State.setReg_index (s : State) (x : Reg) (b : Byte) : (s.setReg x b).index = s.index := rfl
@[simp] theorem State.setReg_pc (s : State) (x : Reg) (b : Byte) : (s.setReg x b).pc = s.pc := rfl
@[simp] theorem State.setReg_stack (s : State) (x : Reg) (b : Byte) : (s.setReg x b).stack = s.stack := rfl
@[simp] theorem State.setReg_fb (s : State) (x : Reg) (b : Byte) : (s.setReg x b).fb = s.fb := rfl
@[simp] theorem State.setReg_dt (s : State) (x : Reg) (b : Byte) : (s.setReg x b).dt = s.dt := rfl
@[simp] theorem State.setReg_st (s : State) (x : Reg) (b : Byte) : (s.setReg x b).st = s.st := rfl
@[simp] theorem State.setReg_keys (s : State) (x : Reg) (b : Byte) : (s.setReg x b).keys = s.keys := rfl
@[simp] theorem State.setReg_cur (s : State) (x : Reg) (b : Byte) : (s.setReg x b).cur = s.cur := rfl
@[simp] theorem State.setReg_halt (s : State) (x : Reg) (b : Byte) : (s.setReg x b).halt = s.halt := rfl
@[simp] theorem State.setReg_mem (s : State) (x : Reg) (b : Byte) : (s.setReg x b).mem = s.mem := rfl
@[simp] theorem State.setReg_draws (s : State) (x : Reg) (b : Byte) : (s.setReg x b).draws = s.draws := rfl

/-! ## `setRegs` -/

@[simp] theorem State.setRegs_v (s : State) (v : Vector Byte 16) : (s.setRegs v).v = v := rfl
@[simp] theorem State.setRegs_index (s : State) (v : Vector Byte 16) : (s.setRegs v).index = s.index := rfl
@[simp] theorem State.setRegs_pc (s : State) (v : Vector Byte 16) : (s.setRegs v).pc = s.pc := rfl
@[simp] theorem State.setRegs_stack (s : State) (v : Vector Byte 16) : (s.setRegs v).stack = s.stack := rfl
@[simp] theorem State.setRegs_fb (s : State) (v : Vector Byte 16) : (s.setRegs v).fb = s.fb := rfl
@[simp] theorem State.setRegs_dt (s : State) (v : Vector Byte 16) : (s.setRegs v).dt = s.dt := rfl
@[simp] theorem State.setRegs_st (s : State) (v : Vector Byte 16) : (s.setRegs v).st = s.st := rfl
@[simp] theorem State.setRegs_keys (s : State) (v : Vector Byte 16) : (s.setRegs v).keys = s.keys := rfl
@[simp] theorem State.setRegs_cur (s : State) (v : Vector Byte 16) : (s.setRegs v).cur = s.cur := rfl
@[simp] theorem State.setRegs_halt (s : State) (v : Vector Byte 16) : (s.setRegs v).halt = s.halt := rfl
@[simp] theorem State.setRegs_mem (s : State) (v : Vector Byte 16) : (s.setRegs v).mem = s.mem := rfl
@[simp] theorem State.setRegs_draws (s : State) (v : Vector Byte 16) : (s.setRegs v).draws = s.draws := rfl

/-! ## `setIndex` -/

@[simp] theorem State.setIndex_v (s : State) (a : Word) : (s.setIndex a).v = s.v := rfl
@[simp] theorem State.setIndex_index (s : State) (a : Word) : (s.setIndex a).index = a := rfl
@[simp] theorem State.setIndex_pc (s : State) (a : Word) : (s.setIndex a).pc = s.pc := rfl
@[simp] theorem State.setIndex_stack (s : State) (a : Word) : (s.setIndex a).stack = s.stack := rfl
@[simp] theorem State.setIndex_fb (s : State) (a : Word) : (s.setIndex a).fb = s.fb := rfl
@[simp] theorem State.setIndex_dt (s : State) (a : Word) : (s.setIndex a).dt = s.dt := rfl
@[simp] theorem State.setIndex_st (s : State) (a : Word) : (s.setIndex a).st = s.st := rfl
@[simp] theorem State.setIndex_keys (s : State) (a : Word) : (s.setIndex a).keys = s.keys := rfl
@[simp] theorem State.setIndex_cur (s : State) (a : Word) : (s.setIndex a).cur = s.cur := rfl
@[simp] theorem State.setIndex_halt (s : State) (a : Word) : (s.setIndex a).halt = s.halt := rfl
@[simp] theorem State.setIndex_mem (s : State) (a : Word) : (s.setIndex a).mem = s.mem := rfl
@[simp] theorem State.setIndex_draws (s : State) (a : Word) : (s.setIndex a).draws = s.draws := rfl
@[simp] theorem State.reg_setIndex (s : State) (a : Word) (z : Reg) : (s.setIndex a).reg z = s.reg z := rfl

/-! ## `setPc` -/

@[simp] theorem State.setPc_v (s : State) (target : Word) : (s.setPc target).v = s.v := rfl
@[simp] theorem State.setPc_index (s : State) (target : Word) : (s.setPc target).index = s.index := rfl
@[simp] theorem State.setPc_pc (s : State) (target : Word) : (s.setPc target).pc = target := rfl
@[simp] theorem State.setPc_stack (s : State) (target : Word) : (s.setPc target).stack = s.stack := rfl
@[simp] theorem State.setPc_fb (s : State) (target : Word) : (s.setPc target).fb = s.fb := rfl
@[simp] theorem State.setPc_dt (s : State) (target : Word) : (s.setPc target).dt = s.dt := rfl
@[simp] theorem State.setPc_st (s : State) (target : Word) : (s.setPc target).st = s.st := rfl
@[simp] theorem State.setPc_keys (s : State) (target : Word) : (s.setPc target).keys = s.keys := rfl
@[simp] theorem State.setPc_cur (s : State) (target : Word) : (s.setPc target).cur = s.cur := rfl
@[simp] theorem State.setPc_halt (s : State) (target : Word) : (s.setPc target).halt = s.halt := rfl
@[simp] theorem State.setPc_mem (s : State) (target : Word) : (s.setPc target).mem = s.mem := rfl
@[simp] theorem State.setPc_draws (s : State) (target : Word) : (s.setPc target).draws = s.draws := rfl
@[simp] theorem State.reg_setPc (s : State) (target : Word) (z : Reg) : (s.setPc target).reg z = s.reg z := rfl

/-! ## `setStack` -/

@[simp] theorem State.setStack_v (s : State) (l : List Word) : (s.setStack l).v = s.v := rfl
@[simp] theorem State.setStack_index (s : State) (l : List Word) : (s.setStack l).index = s.index := rfl
@[simp] theorem State.setStack_pc (s : State) (l : List Word) : (s.setStack l).pc = s.pc := rfl
@[simp] theorem State.setStack_stack (s : State) (l : List Word) : (s.setStack l).stack = l := rfl
@[simp] theorem State.setStack_fb (s : State) (l : List Word) : (s.setStack l).fb = s.fb := rfl
@[simp] theorem State.setStack_dt (s : State) (l : List Word) : (s.setStack l).dt = s.dt := rfl
@[simp] theorem State.setStack_st (s : State) (l : List Word) : (s.setStack l).st = s.st := rfl
@[simp] theorem State.setStack_keys (s : State) (l : List Word) : (s.setStack l).keys = s.keys := rfl
@[simp] theorem State.setStack_cur (s : State) (l : List Word) : (s.setStack l).cur = s.cur := rfl
@[simp] theorem State.setStack_halt (s : State) (l : List Word) : (s.setStack l).halt = s.halt := rfl
@[simp] theorem State.setStack_mem (s : State) (l : List Word) : (s.setStack l).mem = s.mem := rfl
@[simp] theorem State.setStack_draws (s : State) (l : List Word) : (s.setStack l).draws = s.draws := rfl
@[simp] theorem State.reg_setStack (s : State) (l : List Word) (z : Reg) : (s.setStack l).reg z = s.reg z := rfl

/-! ## `setFb` -/

@[simp] theorem State.setFb_v (s : State) (f : Framebuffer) : (s.setFb f).v = s.v := rfl
@[simp] theorem State.setFb_index (s : State) (f : Framebuffer) : (s.setFb f).index = s.index := rfl
@[simp] theorem State.setFb_pc (s : State) (f : Framebuffer) : (s.setFb f).pc = s.pc := rfl
@[simp] theorem State.setFb_stack (s : State) (f : Framebuffer) : (s.setFb f).stack = s.stack := rfl
@[simp] theorem State.setFb_fb (s : State) (f : Framebuffer) : (s.setFb f).fb = f := rfl
@[simp] theorem State.setFb_dt (s : State) (f : Framebuffer) : (s.setFb f).dt = s.dt := rfl
@[simp] theorem State.setFb_st (s : State) (f : Framebuffer) : (s.setFb f).st = s.st := rfl
@[simp] theorem State.setFb_keys (s : State) (f : Framebuffer) : (s.setFb f).keys = s.keys := rfl
@[simp] theorem State.setFb_cur (s : State) (f : Framebuffer) : (s.setFb f).cur = s.cur := rfl
@[simp] theorem State.setFb_halt (s : State) (f : Framebuffer) : (s.setFb f).halt = s.halt := rfl
@[simp] theorem State.setFb_mem (s : State) (f : Framebuffer) : (s.setFb f).mem = s.mem := rfl
@[simp] theorem State.setFb_draws (s : State) (f : Framebuffer) : (s.setFb f).draws = s.draws := rfl
@[simp] theorem State.reg_setFb (s : State) (f : Framebuffer) (z : Reg) : (s.setFb f).reg z = s.reg z := rfl

/-! ## `setDt` -/

@[simp] theorem State.setDt_v (s : State) (b : Byte) : (s.setDt b).v = s.v := rfl
@[simp] theorem State.setDt_index (s : State) (b : Byte) : (s.setDt b).index = s.index := rfl
@[simp] theorem State.setDt_pc (s : State) (b : Byte) : (s.setDt b).pc = s.pc := rfl
@[simp] theorem State.setDt_stack (s : State) (b : Byte) : (s.setDt b).stack = s.stack := rfl
@[simp] theorem State.setDt_fb (s : State) (b : Byte) : (s.setDt b).fb = s.fb := rfl
@[simp] theorem State.setDt_dt (s : State) (b : Byte) : (s.setDt b).dt = b := rfl
@[simp] theorem State.setDt_st (s : State) (b : Byte) : (s.setDt b).st = s.st := rfl
@[simp] theorem State.setDt_keys (s : State) (b : Byte) : (s.setDt b).keys = s.keys := rfl
@[simp] theorem State.setDt_cur (s : State) (b : Byte) : (s.setDt b).cur = s.cur := rfl
@[simp] theorem State.setDt_halt (s : State) (b : Byte) : (s.setDt b).halt = s.halt := rfl
@[simp] theorem State.setDt_mem (s : State) (b : Byte) : (s.setDt b).mem = s.mem := rfl
@[simp] theorem State.setDt_draws (s : State) (b : Byte) : (s.setDt b).draws = s.draws := rfl
@[simp] theorem State.reg_setDt (s : State) (b : Byte) (z : Reg) : (s.setDt b).reg z = s.reg z := rfl

/-! ## `setSt` -/

@[simp] theorem State.setSt_v (s : State) (b : Byte) : (s.setSt b).v = s.v := rfl
@[simp] theorem State.setSt_index (s : State) (b : Byte) : (s.setSt b).index = s.index := rfl
@[simp] theorem State.setSt_pc (s : State) (b : Byte) : (s.setSt b).pc = s.pc := rfl
@[simp] theorem State.setSt_stack (s : State) (b : Byte) : (s.setSt b).stack = s.stack := rfl
@[simp] theorem State.setSt_fb (s : State) (b : Byte) : (s.setSt b).fb = s.fb := rfl
@[simp] theorem State.setSt_dt (s : State) (b : Byte) : (s.setSt b).dt = s.dt := rfl
@[simp] theorem State.setSt_st (s : State) (b : Byte) : (s.setSt b).st = b := rfl
@[simp] theorem State.setSt_keys (s : State) (b : Byte) : (s.setSt b).keys = s.keys := rfl
@[simp] theorem State.setSt_cur (s : State) (b : Byte) : (s.setSt b).cur = s.cur := rfl
@[simp] theorem State.setSt_halt (s : State) (b : Byte) : (s.setSt b).halt = s.halt := rfl
@[simp] theorem State.setSt_mem (s : State) (b : Byte) : (s.setSt b).mem = s.mem := rfl
@[simp] theorem State.setSt_draws (s : State) (b : Byte) : (s.setSt b).draws = s.draws := rfl
@[simp] theorem State.reg_setSt (s : State) (b : Byte) (z : Reg) : (s.setSt b).reg z = s.reg z := rfl

/-! ## `setKeys` -/

@[simp] theorem State.setKeys_v (s : State) (k : Keypad) : (s.setKeys k).v = s.v := rfl
@[simp] theorem State.setKeys_index (s : State) (k : Keypad) : (s.setKeys k).index = s.index := rfl
@[simp] theorem State.setKeys_pc (s : State) (k : Keypad) : (s.setKeys k).pc = s.pc := rfl
@[simp] theorem State.setKeys_stack (s : State) (k : Keypad) : (s.setKeys k).stack = s.stack := rfl
@[simp] theorem State.setKeys_fb (s : State) (k : Keypad) : (s.setKeys k).fb = s.fb := rfl
@[simp] theorem State.setKeys_dt (s : State) (k : Keypad) : (s.setKeys k).dt = s.dt := rfl
@[simp] theorem State.setKeys_st (s : State) (k : Keypad) : (s.setKeys k).st = s.st := rfl
@[simp] theorem State.setKeys_keys (s : State) (k : Keypad) : (s.setKeys k).keys = k := rfl
@[simp] theorem State.setKeys_cur (s : State) (k : Keypad) : (s.setKeys k).cur = s.cur := rfl
@[simp] theorem State.setKeys_halt (s : State) (k : Keypad) : (s.setKeys k).halt = s.halt := rfl
@[simp] theorem State.setKeys_mem (s : State) (k : Keypad) : (s.setKeys k).mem = s.mem := rfl
@[simp] theorem State.setKeys_draws (s : State) (k : Keypad) : (s.setKeys k).draws = s.draws := rfl
@[simp] theorem State.reg_setKeys (s : State) (k : Keypad) (z : Reg) : (s.setKeys k).reg z = s.reg z := rfl

/-! ## `setCur` -/

@[simp] theorem State.setCur_v (s : State) (w : Word) : (s.setCur w).v = s.v := rfl
@[simp] theorem State.setCur_index (s : State) (w : Word) : (s.setCur w).index = s.index := rfl
@[simp] theorem State.setCur_pc (s : State) (w : Word) : (s.setCur w).pc = s.pc := rfl
@[simp] theorem State.setCur_stack (s : State) (w : Word) : (s.setCur w).stack = s.stack := rfl
@[simp] theorem State.setCur_fb (s : State) (w : Word) : (s.setCur w).fb = s.fb := rfl
@[simp] theorem State.setCur_dt (s : State) (w : Word) : (s.setCur w).dt = s.dt := rfl
@[simp] theorem State.setCur_st (s : State) (w : Word) : (s.setCur w).st = s.st := rfl
@[simp] theorem State.setCur_keys (s : State) (w : Word) : (s.setCur w).keys = s.keys := rfl
@[simp] theorem State.setCur_cur (s : State) (w : Word) : (s.setCur w).cur = w := rfl
@[simp] theorem State.setCur_halt (s : State) (w : Word) : (s.setCur w).halt = s.halt := rfl
@[simp] theorem State.setCur_mem (s : State) (w : Word) : (s.setCur w).mem = s.mem := rfl
@[simp] theorem State.setCur_draws (s : State) (w : Word) : (s.setCur w).draws = s.draws := rfl
@[simp] theorem State.reg_setCur (s : State) (w : Word) (z : Reg) : (s.setCur w).reg z = s.reg z := rfl

/-! ## `setHalt` -/

@[simp] theorem State.setHalt_v (s : State) (h : Halt) : (s.setHalt h).v = s.v := rfl
@[simp] theorem State.setHalt_index (s : State) (h : Halt) : (s.setHalt h).index = s.index := rfl
@[simp] theorem State.setHalt_pc (s : State) (h : Halt) : (s.setHalt h).pc = s.pc := rfl
@[simp] theorem State.setHalt_stack (s : State) (h : Halt) : (s.setHalt h).stack = s.stack := rfl
@[simp] theorem State.setHalt_fb (s : State) (h : Halt) : (s.setHalt h).fb = s.fb := rfl
@[simp] theorem State.setHalt_dt (s : State) (h : Halt) : (s.setHalt h).dt = s.dt := rfl
@[simp] theorem State.setHalt_st (s : State) (h : Halt) : (s.setHalt h).st = s.st := rfl
@[simp] theorem State.setHalt_keys (s : State) (h : Halt) : (s.setHalt h).keys = s.keys := rfl
@[simp] theorem State.setHalt_cur (s : State) (h : Halt) : (s.setHalt h).cur = s.cur := rfl
@[simp] theorem State.setHalt_halt (s : State) (h : Halt) : (s.setHalt h).halt = h := rfl
@[simp] theorem State.setHalt_mem (s : State) (h : Halt) : (s.setHalt h).mem = s.mem := rfl
@[simp] theorem State.setHalt_draws (s : State) (h : Halt) : (s.setHalt h).draws = s.draws := rfl
@[simp] theorem State.reg_setHalt (s : State) (h : Halt) (z : Reg) : (s.setHalt h).reg z = s.reg z := rfl

/-! ## `setMem` -/

@[simp] theorem State.setMem_v (s : State) (m : Memory) : (s.setMem m).v = s.v := rfl
@[simp] theorem State.setMem_index (s : State) (m : Memory) : (s.setMem m).index = s.index := rfl
@[simp] theorem State.setMem_pc (s : State) (m : Memory) : (s.setMem m).pc = s.pc := rfl
@[simp] theorem State.setMem_stack (s : State) (m : Memory) : (s.setMem m).stack = s.stack := rfl
@[simp] theorem State.setMem_fb (s : State) (m : Memory) : (s.setMem m).fb = s.fb := rfl
@[simp] theorem State.setMem_dt (s : State) (m : Memory) : (s.setMem m).dt = s.dt := rfl
@[simp] theorem State.setMem_st (s : State) (m : Memory) : (s.setMem m).st = s.st := rfl
@[simp] theorem State.setMem_keys (s : State) (m : Memory) : (s.setMem m).keys = s.keys := rfl
@[simp] theorem State.setMem_cur (s : State) (m : Memory) : (s.setMem m).cur = s.cur := rfl
@[simp] theorem State.setMem_halt (s : State) (m : Memory) : (s.setMem m).halt = s.halt := rfl
@[simp] theorem State.setMem_mem (s : State) (m : Memory) : (s.setMem m).mem = m := rfl
@[simp] theorem State.setMem_draws (s : State) (m : Memory) : (s.setMem m).draws = s.draws := rfl
@[simp] theorem State.reg_setMem (s : State) (m : Memory) (z : Reg) : (s.setMem m).reg z = s.reg z := rfl

/-! ## `setDraws` -/

@[simp] theorem State.setDraws_v (s : State) (n : Nat) : (s.setDraws n).v = s.v := rfl
@[simp] theorem State.setDraws_index (s : State) (n : Nat) : (s.setDraws n).index = s.index := rfl
@[simp] theorem State.setDraws_pc (s : State) (n : Nat) : (s.setDraws n).pc = s.pc := rfl
@[simp] theorem State.setDraws_stack (s : State) (n : Nat) : (s.setDraws n).stack = s.stack := rfl
@[simp] theorem State.setDraws_fb (s : State) (n : Nat) : (s.setDraws n).fb = s.fb := rfl
@[simp] theorem State.setDraws_dt (s : State) (n : Nat) : (s.setDraws n).dt = s.dt := rfl
@[simp] theorem State.setDraws_st (s : State) (n : Nat) : (s.setDraws n).st = s.st := rfl
@[simp] theorem State.setDraws_keys (s : State) (n : Nat) : (s.setDraws n).keys = s.keys := rfl
@[simp] theorem State.setDraws_cur (s : State) (n : Nat) : (s.setDraws n).cur = s.cur := rfl
@[simp] theorem State.setDraws_halt (s : State) (n : Nat) : (s.setDraws n).halt = s.halt := rfl
@[simp] theorem State.setDraws_mem (s : State) (n : Nat) : (s.setDraws n).mem = s.mem := rfl
@[simp] theorem State.setDraws_draws (s : State) (n : Nat) : (s.setDraws n).draws = n := rfl
@[simp] theorem State.reg_setDraws (s : State) (n : Nat) (z : Reg) : (s.setDraws n).reg z = s.reg z := rfl

end Sys2Proof.Machine
end

