-- ==== Sys2Proof/Laws/Ops.lean ====
section
/-! SUPPORT. For each shared operation, once, everything it can do. -/

namespace Sys2Proof.Machine

/-! ## Operands -/

theorem toNat_extendNnn (nnn : Addr12) : (extendNnn nnn).toNat = nnn.toNat := by
  simp only [extendNnn, BitVec.toNat_setWidth]
  omega

theorem rangeFits_iff (a k : Nat) : rangeFits a k = true ↔ k = 0 ∨ a + k ≤ memSize := by
  simp [rangeFits]

@[simp] theorem State.effectiveAddr_zero (s : State) : s.effectiveAddr 0 = s.index.toNat := rfl

theorem State.effectiveAddr_add (s : State) (j : Nat) : s.effectiveAddr j = s.effectiveAddr 0 + j := rfl

@[simp] theorem State.length_regsUpTo (s : State) (x : Reg) : (s.regsUpTo x).length = x.val + 1 := by
  simp [State.regsUpTo]

theorem State.getD_regsUpTo (s : State) (x z : Reg) (h : z ≤ x) (d : Byte) :
    (s.regsUpTo x).getD z.val d = s.reg z := by
  have hz : z.val < x.val + 1 := Nat.lt_succ_of_le h
  simp only [State.regsUpTo, List.getD_eq_getElem?_getD, List.getElem?_map, List.getElem?_range hz,
    Option.map_some, Option.getD_some]
  congr 1
  exact Fin.ext (Nat.mod_eq_of_lt z.isLt)

@[simp] theorem length_bcdDigits (b : Byte) : (bcdDigits b).length = 3 := rfl

/-! ## Flags -/

theorem toNat_flagByte (f : Bool) : (flagByte f).toNat = if f then 1 else 0 := by
  cases f <;> rfl

/-! ## The keypad -/

theorem mem_pressedKeys (keys : Keypad) (k : Key) : k ∈ pressedKeys keys ↔ keys.get k = true := by
  simp [pressedKeys]

/-- KEY_PICK answers nothing exactly when no key is down. -/
theorem keyPick_eq_none (keys : Keypad) : keyPick keys = none ↔ ∀ k, keys.get k = false := by
  have hm := mem_pressedKeys keys
  unfold keyPick
  split
  · rename_i h
    simp only [h, List.not_mem_nil, false_iff, Bool.not_eq_true] at hm
    simp [hm]
  · rename_i k h
    have := (hm k).1 (by simp [h])
    simp only [reduceCtorEq, false_iff]
    intro hk
    simp [hk] at this
  · rename_i k k' rest h
    have := (hm k).1 (by simp [h])
    simp only [reduceCtorEq, false_iff]
    intro hk
    simp [hk] at this

/-- The key KEY_PICK answers is down. -/
theorem keyPick_pressed {keys : Keypad} {k : Key} (h : keyPick keys = some k) : keys.get k = true := by
  rw [← mem_pressedKeys]
  unfold keyPick at h
  split at h
  · cases h
  · rename_i h'
    cases h
    simp [h']
  · rename_i j j' rest h'
    rw [h']
    cases h
    rw [List.getD_eq_getElem (hn := by
      have := Nat.mod_lt (Config.keyChoice keys) (show 0 < rest.length + 2 by omega)
      simp only [List.length_cons]
      omega)]
    exact List.getElem_mem _

/-! ## Fatal conditions and the range check -/

/-- A raised condition is a next state: the one that differs in the halt state alone. -/
theorem State.raise_eq (s : State) (kind : FatalKind) (addr : Option Nat) :
    s.raise kind addr = .next { s with halt := .halted ⟨kind, some s.cur, s.pc - 2#16, addr⟩ } := rfl

theorem State.checkRange_fits {s : State} {k : Nat} {act : State → State}
    (h : rangeFits s.index.toNat k = true) : s.checkRange k act = .next (act s) := by
  simp [State.checkRange, h]

theorem State.checkRange_outside {s : State} {k : Nat} {act : State → State}
    (h : rangeFits s.index.toNat k = false) :
    s.checkRange k act = s.raise .addressOutOfRange (some (firstOutside s.index.toNat)) := by
  simp [State.checkRange, h]

/-- What a range-checked access can do: the access, or AddressOutOfRange. -/
theorem State.checkRange_cases {s t : State} {k : Nat} {act : State → State} (h : s.checkRange k act = .next t) :
    (rangeFits s.index.toNat k = true ∧ t = act s) ∨
    (rangeFits s.index.toNat k = false ∧
      t = s.takeFatal .addressOutOfRange (some (firstOutside s.index.toNat))) := by
  cases hf : rangeFits s.index.toNat k with
  | true =>
    rw [State.checkRange_fits hf] at h
    cases h
    exact .inl ⟨rfl, rfl⟩
  | false =>
    rw [State.checkRange_outside hf] at h
    cases h
    exact .inr ⟨rfl, rfl⟩

/-! ## Skips -/

theorem State.skipIf_eq (s : State) (c : Bool) : s.skipIf c = s.setPc (if c then s.pc + 2#16 else s.pc) := by
  cases c <;> rfl

/-- A skip on a key that V[x] names. -/
theorem State.skipOnKey_key {s : State} {x : Reg} {wanted : Bool} (h : (s.reg x).toNat < 16) :
    s.skipOnKey x wanted = .next (s.skipIf (s.keyDown ⟨(s.reg x).toNat, h⟩ == wanted)) := by
  simp [State.skipOnKey, h]

theorem State.skipOnKey_noKey {s : State} {x : Reg} {wanted : Bool} (h : ¬ (s.reg x).toNat < 16) :
    s.skipOnKey x wanted = s.raise .addressOutOfRange (some (s.reg x).toNat) := by
  simp [State.skipOnKey, h]

/-- What a key skip can do: a skip decided by the slot, or AddressOutOfRange. -/
theorem State.skipOnKey_cases {s t : State} {x : Reg} {wanted : Bool} (h : s.skipOnKey x wanted = .next t) :
    (∃ c, t = s.skipIf c) ∨
    (¬ (s.reg x).toNat < 16 ∧ t = s.takeFatal .addressOutOfRange (some (s.reg x).toNat)) := by
  by_cases hk : (s.reg x).toNat < 16
  · rw [State.skipOnKey_key hk] at h
    cases h
    exact .inl ⟨_, rfl⟩
  · rw [State.skipOnKey_noKey hk] at h
    cases h
    exact .inr ⟨hk, rfl⟩

/-! ## The result and the flag -/

theorem State.reg_setResultThenFlag (s : State) (x z : Reg) (result flag : Byte) :
    (s.setResultThenFlag x result flag).reg z = if z = vf then flag else if z = x then result else s.reg z := by
  simp [State.setResultThenFlag]

/-! ## The register load -/

theorem get_loadRegs (v : Vector Byte 16) (j : Nat) (bs : List Byte) (h : j + bs.length ≤ 16) (z : Reg) :
    (loadRegs v j bs).get z =
      if j ≤ z.val ∧ z.val < j + bs.length then bs.getD (z.val - j) 0#8 else v.get z := by
  induction bs generalizing v j with
  | nil =>
    simp only [loadRegs, List.length_nil]
    rw [if_neg (by omega)]
  | cons b bs ih =>
    rw [List.length_cons] at h
    have hj : (Fin.ofNat 16 j).val = j := Nat.mod_eq_of_lt (by omega)
    rw [loadRegs, ih _ _ (by omega), List.length_cons]
    by_cases h1 : z.val = j
    · rw [if_neg (by omega), if_pos (by omega)]
      simp only [Vector.get_eq_getElem, Vector.getElem_set]
      rw [if_pos (by omega)]
      simp [h1]
    · have hget : (v.set (Fin.ofNat 16 j) b).get z = v.get z := by
        simp only [Vector.get_eq_getElem, Vector.getElem_set]
        rw [if_neg (by omega)]
      rw [hget]
      by_cases h2 : j + 1 ≤ z.val ∧ z.val < j + 1 + bs.length
      · rw [if_pos h2, if_pos (by omega), show z.val - j = (z.val - (j + 1)) + 1 by omega,
          List.getD_cons_succ]
      · rw [if_neg h2, if_neg (by omega)]

/-! ## Fetch -/

theorem State.canFetch_iff (s : State) : s.canFetch = true ↔ s.pc.toNat ≤ 0xFFE := by
  simp only [State.canFetch, memSize, decide_eq_true_eq]
  omega

theorem State.isRunning_iff (s : State) : s.isRunning = true ↔ s.halt = .running := by
  simp [State.isRunning]

@[simp] theorem State.fetched_pc (s : State) : s.fetched.pc = s.pc + 2#16 := rfl
@[simp] theorem State.fetched_cur (s : State) : s.fetched.cur = s.fetchWord := rfl
@[simp] theorem State.fetched_v (s : State) : s.fetched.v = s.v := rfl
@[simp] theorem State.fetched_index (s : State) : s.fetched.index = s.index := rfl
@[simp] theorem State.fetched_stack (s : State) : s.fetched.stack = s.stack := rfl
@[simp] theorem State.fetched_fb (s : State) : s.fetched.fb = s.fb := rfl
@[simp] theorem State.fetched_dt (s : State) : s.fetched.dt = s.dt := rfl
@[simp] theorem State.fetched_st (s : State) : s.fetched.st = s.st := rfl
@[simp] theorem State.fetched_keys (s : State) : s.fetched.keys = s.keys := rfl
@[simp] theorem State.fetched_halt (s : State) : s.fetched.halt = s.halt := rfl
@[simp] theorem State.fetched_mem (s : State) : s.fetched.mem = s.mem := rfl
@[simp] theorem State.fetched_draws (s : State) : s.fetched.draws = s.draws := rfl

end Sys2Proof.Machine
end

