-- ==== Sys2Proof/Laws/Display.lean ====
section
/-! SUPPORT. The framebuffer: what a cell holds after one cell is written, and after one pixel is drawn. -/

namespace Sys2Proof.Machine

theorem Framebuffer.cell_setCell (fb : Framebuffer) (r r' : Fin 32) (c c' : Fin 64) (lit : Bool) :
    Framebuffer.cell (Framebuffer.setCell fb r c lit) r' c' =
      if r' = r ∧ c' = c then lit else Framebuffer.cell fb r' c' := by
  simp only [Framebuffer.cell, Framebuffer.setCell, Vector.get_eq_getElem, Vector.getElem_set]
  by_cases hr : r' = r
  · subst hr
    by_cases hc : c' = c
    · simp [hc]
    · have : ¬ c.val = c'.val := fun e => hc (Fin.ext e.symm)
      simp [hc, this]
  · have : ¬ r.val = r'.val := fun e => hr (Fin.ext e.symm)
    simp [hr, this]

/-- Two framebuffers with the same cells are the same. -/
theorem Framebuffer.ext_cells {f g : Framebuffer} (h : ∀ r c, Framebuffer.cell f r c = Framebuffer.cell g r c) :
    f = g := by
  apply Vector.ext
  intro i hi
  apply Vector.ext
  intro j hj
  exact h ⟨i, hi⟩ ⟨j, hj⟩

@[simp] theorem cell_clearScreen (r : Fin 32) (c : Fin 64) : Framebuffer.cell clearScreen r c = false := by
  simp [Framebuffer.cell, clearScreen, Vector.get_eq_getElem]

/-- A drawn pixel changes its own cell alone. -/
theorem cell_drawPixel (r r' : Fin 32) (c c' : Fin 64) (bit : Bool) (d : Canvas) :
    Framebuffer.cell (drawPixel r c bit d).1 r' c' =
      if r' = r ∧ c' = c then Framebuffer.cell d.1 r c ^^ bit else Framebuffer.cell d.1 r' c' :=
  Framebuffer.cell_setCell ..

theorem collision_drawPixel (r : Fin 32) (c : Fin 64) (bit : Bool) (d : Canvas) :
    (drawPixel r c bit d).2 = (d.2 || (Framebuffer.cell d.1 r c && bit)) := rfl

end Sys2Proof.Machine
end

