-- ==== Sys2Proof/Laws/PerInstr.lean ====
section
/-! SUPPORT. Statements for all instructions, one lemma per constructor. The family TableRow: the word of an
instruction is selected by the row of the opcode table that has its mnemonic (R94). -/

namespace Sys2Proof.Laws.TableRow

/-- The row of the opcode table with the instruction's mnemonic selects its word. -/
def Statement (i : Instr) : Prop :=
  ∃ r ∈ opcodeTable, r.mnemonic = i.mnemonic ∧ r.selects (encode i) = true

/-- From one row that is in the table. -/
theorem of_row (i : Instr) (r : OpcodeRow) (hr : r ∈ opcodeTable) (hm : r.mnemonic = i.mnemonic)
    (hs : r.selects (encode i) = true) : Statement i := ⟨r, hr, hm, hs⟩

theorem cls : Statement .cls :=
  of_row _ ⟨"CLS", 0xFFFF#16, 0x00E0#16⟩ (by decide) rfl (rfl)

theorem ret : Statement .ret :=
  of_row _ ⟨"RET", 0xFFFF#16, 0x00EE#16⟩ (by decide) rfl (rfl)

theorem jp (nnn : Addr12) : Statement (.jp nnn) :=
  of_row _ ⟨"JP_nnn", 0xF000#16, 0x1000#16⟩ (by decide) rfl (selects_packNnn 0x1#4 nnn _)

theorem call (nnn : Addr12) : Statement (.call nnn) :=
  of_row _ ⟨"CALL_nnn", 0xF000#16, 0x2000#16⟩ (by decide) rfl (selects_packNnn 0x2#4 nnn _)

theorem seImm (x : Reg) (kk : Byte) : Statement (.seImm x kk) :=
  of_row _ ⟨"SE_Vx__kk", 0xF000#16, 0x3000#16⟩ (by decide) rfl (selects_packXkk 0x3#4 x kk _)

theorem sneImm (x : Reg) (kk : Byte) : Statement (.sneImm x kk) :=
  of_row _ ⟨"SNE_Vx__kk", 0xF000#16, 0x4000#16⟩ (by decide) rfl (selects_packXkk 0x4#4 x kk _)

theorem seReg (x : Reg) (y : Reg) : Statement (.seReg x y) :=
  of_row _ ⟨"SE_Vx__Vy", 0xF00F#16, 0x5000#16⟩ (by decide) rfl (selects_packXy 0x5#4 x y 0x0#4 _)

theorem ldImm (x : Reg) (kk : Byte) : Statement (.ldImm x kk) :=
  of_row _ ⟨"LD_Vx__kk", 0xF000#16, 0x6000#16⟩ (by decide) rfl (selects_packXkk 0x6#4 x kk _)

theorem addImm (x : Reg) (kk : Byte) : Statement (.addImm x kk) :=
  of_row _ ⟨"ADD_Vx__kk", 0xF000#16, 0x7000#16⟩ (by decide) rfl (selects_packXkk 0x7#4 x kk _)

theorem ldReg (x : Reg) (y : Reg) : Statement (.ldReg x y) :=
  of_row _ ⟨"LD_Vx__Vy", 0xF00F#16, 0x8000#16⟩ (by decide) rfl (selects_packXy 0x8#4 x y 0x0#4 _)

theorem orReg (x : Reg) (y : Reg) : Statement (.orReg x y) :=
  of_row _ ⟨"OR_Vx__Vy", 0xF00F#16, 0x8001#16⟩ (by decide) rfl (selects_packXy 0x8#4 x y 0x1#4 _)

theorem andReg (x : Reg) (y : Reg) : Statement (.andReg x y) :=
  of_row _ ⟨"AND_Vx__Vy", 0xF00F#16, 0x8002#16⟩ (by decide) rfl (selects_packXy 0x8#4 x y 0x2#4 _)

theorem xorReg (x : Reg) (y : Reg) : Statement (.xorReg x y) :=
  of_row _ ⟨"XOR_Vx__Vy", 0xF00F#16, 0x8003#16⟩ (by decide) rfl (selects_packXy 0x8#4 x y 0x3#4 _)

theorem addReg (x : Reg) (y : Reg) : Statement (.addReg x y) :=
  of_row _ ⟨"ADD_Vx__Vy", 0xF00F#16, 0x8004#16⟩ (by decide) rfl (selects_packXy 0x8#4 x y 0x4#4 _)

theorem sub (x : Reg) (y : Reg) : Statement (.sub x y) :=
  of_row _ ⟨"SUB_Vx__Vy", 0xF00F#16, 0x8005#16⟩ (by decide) rfl (selects_packXy 0x8#4 x y 0x5#4 _)

theorem shr (x : Reg) (y : Reg) : Statement (.shr x y) :=
  of_row _ ⟨"SHR_Vx", 0xF00F#16, 0x8006#16⟩ (by decide) rfl (selects_packXy 0x8#4 x y 0x6#4 _)

theorem subn (x : Reg) (y : Reg) : Statement (.subn x y) :=
  of_row _ ⟨"SUBN_Vx__Vy", 0xF00F#16, 0x8007#16⟩ (by decide) rfl (selects_packXy 0x8#4 x y 0x7#4 _)

theorem shl (x : Reg) (y : Reg) : Statement (.shl x y) :=
  of_row _ ⟨"SHL_Vx", 0xF00F#16, 0x800E#16⟩ (by decide) rfl (selects_packXy 0x8#4 x y 0xE#4 _)

theorem sneReg (x : Reg) (y : Reg) : Statement (.sneReg x y) :=
  of_row _ ⟨"SNE_Vx__Vy", 0xF00F#16, 0x9000#16⟩ (by decide) rfl (selects_packXy 0x9#4 x y 0x0#4 _)

theorem ldI (nnn : Addr12) : Statement (.ldI nnn) :=
  of_row _ ⟨"LD_I__nnn", 0xF000#16, 0xA000#16⟩ (by decide) rfl (selects_packNnn 0xA#4 nnn _)

theorem jpV0 (nnn : Addr12) : Statement (.jpV0 nnn) :=
  of_row _ ⟨"JP_V0__nnn", 0xF000#16, 0xB000#16⟩ (by decide) rfl (selects_packNnn 0xB#4 nnn _)

theorem rnd (x : Reg) (kk : Byte) : Statement (.rnd x kk) :=
  of_row _ ⟨"RND_Vx__kk", 0xF000#16, 0xC000#16⟩ (by decide) rfl (selects_packXkk 0xC#4 x kk _)

theorem drw (x : Reg) (y : Reg) (n : Fin 16) : Statement (.drw x y n) :=
  of_row _ ⟨"DRW_Vx__Vy__n", 0xF000#16, 0xD000#16⟩ (by decide) rfl (selects_packXyn 0xD#4 x y _ _)

theorem skp (x : Reg) : Statement (.skp x) :=
  of_row _ ⟨"SKP_Vx", 0xF0FF#16, 0xE09E#16⟩ (by decide) rfl (selects_packX 0xE#4 x 0x9E#8 _)

theorem sknp (x : Reg) : Statement (.sknp x) :=
  of_row _ ⟨"SKNP_Vx", 0xF0FF#16, 0xE0A1#16⟩ (by decide) rfl (selects_packX 0xE#4 x 0xA1#8 _)

theorem ldVxDt (x : Reg) : Statement (.ldVxDt x) :=
  of_row _ ⟨"LD_Vx__DT", 0xF0FF#16, 0xF007#16⟩ (by decide) rfl (selects_packX 0xF#4 x 0x07#8 _)

theorem ldVxK (x : Reg) : Statement (.ldVxK x) :=
  of_row _ ⟨"LD_Vx__K", 0xF0FF#16, 0xF00A#16⟩ (by decide) rfl (selects_packX 0xF#4 x 0x0A#8 _)

theorem ldDtVx (x : Reg) : Statement (.ldDtVx x) :=
  of_row _ ⟨"LD_DT__Vx", 0xF0FF#16, 0xF015#16⟩ (by decide) rfl (selects_packX 0xF#4 x 0x15#8 _)

theorem ldStVx (x : Reg) : Statement (.ldStVx x) :=
  of_row _ ⟨"LD_ST__Vx", 0xF0FF#16, 0xF018#16⟩ (by decide) rfl (selects_packX 0xF#4 x 0x18#8 _)

theorem addI (x : Reg) : Statement (.addI x) :=
  of_row _ ⟨"ADD_I__Vx", 0xF0FF#16, 0xF01E#16⟩ (by decide) rfl (selects_packX 0xF#4 x 0x1E#8 _)

theorem ldF (x : Reg) : Statement (.ldF x) :=
  of_row _ ⟨"LD_F__Vx", 0xF0FF#16, 0xF029#16⟩ (by decide) rfl (selects_packX 0xF#4 x 0x29#8 _)

theorem ldB (x : Reg) : Statement (.ldB x) :=
  of_row _ ⟨"LD_B__Vx", 0xF0FF#16, 0xF033#16⟩ (by decide) rfl (selects_packX 0xF#4 x 0x33#8 _)

theorem dump (x : Reg) : Statement (.dump x) :=
  of_row _ ⟨"LD__I___Vx", 0xF0FF#16, 0xF055#16⟩ (by decide) rfl (selects_packX 0xF#4 x 0x55#8 _)

theorem load (x : Reg) : Statement (.load x) :=
  of_row _ ⟨"LD_Vx___I", 0xF0FF#16, 0xF065#16⟩ (by decide) rfl (selects_packX 0xF#4 x 0x65#8 _)

end Sys2Proof.Laws.TableRow
end

