-- ==== Sys2Proof/Laws/Step.lean ====
section
/-! SUPPORT. What a step can do, once: it is ignored, the fetch is fatal, the word is invalid, or the decoded
instruction runs. -/

namespace Sys2Proof.Machine

theorem step_of_halted {s : State} {r : FatalRecord} (h : s.halt = .halted r) : step s = .next s := by
  simp [step, State.isRunning, h]

theorem step_of_fetchFatal {s : State} (h : s.halt = .running) (hf : s.canFetch = false) :
    step s = .next s.takeFetchFatal := by
  simp [step, State.isRunning, h, hf]

theorem step_of_invalid {s : State} {e : DecodeError} (h : s.halt = .running) (hf : s.canFetch = true)
    (hd : decode s.fetchWord = .error e) : step s = s.fetched.raise .invalidOpcode none := by
  simp [step, State.isRunning, h, hf, hd]

theorem step_of_decoded {s : State} {i : Instr} (h : s.halt = .running) (hf : s.canFetch = true)
    (hd : decode s.fetchWord = .ok i) : step s = exec i s.fetched := by
  simp [step, State.isRunning, h, hf, hd]

/-- The four things a step can be. -/
theorem step_cases (s : State) :
    (∃ r, s.halt = .halted r ∧ step s = .next s) ∨
    (s.halt = .running ∧ s.canFetch = false ∧ step s = .next s.takeFetchFatal) ∨
    (s.halt = .running ∧ s.canFetch = true ∧ (∃ e, decode s.fetchWord = .error e) ∧
      step s = s.fetched.raise .invalidOpcode none) ∨
    (s.halt = .running ∧ s.canFetch = true ∧ ∃ i, decode s.fetchWord = .ok i ∧ step s = exec i s.fetched) := by
  cases h : s.halt with
  | halted r => exact .inl ⟨r, rfl, step_of_halted h⟩
  | running =>
    cases hf : s.canFetch with
    | false => exact .inr (.inl ⟨rfl, rfl, step_of_fetchFatal h hf⟩)
    | true =>
      cases hd : decode s.fetchWord with
      | error e => exact .inr (.inr (.inl ⟨rfl, rfl, ⟨e, rfl⟩, step_of_invalid h hf hd⟩))
      | ok i => exact .inr (.inr (.inr ⟨rfl, rfl, i, rfl, step_of_decoded h hf hd⟩))

/-- The host's run of k + 1 steps is a step and a run of k. -/
theorem core_run_succ {k : Nat} {s t : State} (h : step s = .next t) :
    Sys2Proof.core.run (k + 1) s = Sys2Proof.core.run k t := by
  have unfoldRun : ∀ (M : Host.Core) (s t : M.State), M.step s = .next t → M.run (k + 1) s = M.run k t := by
    intro M s t h
    simp only [Host.Core.run, h]
  exact unfoldRun Sys2Proof.core s t h

/-- A step at the ports steps the Machine and leaves `load_error`. -/
theorem move_step {font : Font} {p : Platform} {t : State} (h : step p.machine = .next t) :
    move font .step p = .next { p with machine := t } := by
  simp [move, h]

/-- A run is its first event, then the rest. -/
theorem run_cons {font : Font} {e : Event} {es : List Event} {p q : Platform} (h : move font e p = .next q) :
    run font (e :: es) p = run font es q := by
  simp [run, h]

/-! ## Reset -/

/-- What the memory reads after a Reset: FONT below 0x050, the image from 0x200, zero elsewhere. -/
theorem read_resetMemory (font : Font) (image : List Byte) (a : Nat) :
    (resetMemory font image).read a =
      if 0x200 ≤ a ∧ a < 0x200 + image.length then image.getD (a - 0x200) 0#8
      else if h : a < 80 then font[a] else 0#8 := by
  simp only [resetMemory, Memory.read_writeBytes, Vector.length_toList, fontBase, fontBytes, progBase]
  by_cases hi : 0x200 ≤ a ∧ a < 0x200 + image.length
  · rw [if_pos hi, if_pos hi]
  · rw [if_neg hi, if_neg hi]
    by_cases ha : a < 80
    · rw [if_pos (by omega), dif_pos ha]
      simp [List.getD_eq_getElem?_getD, ha]
    · rw [if_neg (by omega), dif_neg ha]
      have : defaultFontBytes.length = 80 := rfl
      simp [Memory.read, unlistedByte, List.getD_eq_getElem?_getD, this, Nat.not_lt.1 ha]

/-- The memory after a Reset is in the canonical form. -/
theorem wf_resetMemory (font : Font) {image : List Byte} (h : image.length ≤ 0xE00) :
    (resetMemory font image).wf = true :=
  Memory.wf_writeBytes (Memory.wf_writeBytes Memory.wf_nil (by simp [fontBytes, memSize])) (by simp only [progBase, memSize]; omega)

/-- With the default FONT and no image nothing is listed. -/
@[simp] theorem resetMemory_default : resetMemory defaultFont [] = [] := by decide

end Sys2Proof.Machine
end

