-- ==== Sys2Proof/Tests/Slice0.lean ====
section
/-! SUPPORT. Tests. Every expected value is from spec/95_test_vectors.md (its section is named), or from the rule
named; then a witness for the hypotheses of each statement, clause by clause at the ends of its range. -/

namespace Sys2Proof.Tests

open Sys2Proof Sys2Proof.Machine

/-! ## Helpers -/

/-- The state of an answer; the tests use it on next states only. -/
def stateOf : Answer State → State
  | .next t => t
  | .fault _ => State.reset
  | .refused _ => State.reset

/-- The state after one step that fetches the word `w` at the pc of `s`. -/
def runWord (w : Nat) (s : State) : State := stateOf (step (s.withFetchWord 16 w))

/-- Reset, with registers and bytes of memory set. -/
def start (regs : List (Reg × Byte)) (bytes : List (Nat × Byte)) (index : Word) : State :=
  let s := regs.foldl (fun s rb => s.setReg rb.1 rb.2) State.reset
  (s.setMem (bytes.foldl (fun m ab => m.write ab.1 ab.2) s.mem)).setIndex index

/-- The lit cells of some rows and columns. -/
def litCells (s : State) (rows : List (Fin 32)) (cols : List (Fin 64)) : List (Nat × Nat) :=
  (rows.flatMap fun r => cols.map fun c => (r, c)).filterMap fun rc =>
    if Framebuffer.cell s.fb rc.1 rc.2 then some (rc.1.val, rc.2.val) else none

/-! ## Ill-formed terms are refused -/

theorem test_image_of_0xE00_bytes_fits : imageFits (List.replicate 0xE00 0#8) = true := by
  rw [imageFits, List.length_replicate]; rfl

theorem test_image_of_0xE01_bytes_refused : imageFits (List.replicate 0xE01 0#8) = false := by
  rw [imageFits, List.length_replicate]; rfl

theorem test_invalid_words_refused :   -- section 3.2
    validWord 0x0000#16 = false ∧ validWord 0x00E1#16 = false ∧ validWord 0x501F#16 = false ∧
    validWord 0x9AB1#16 = false ∧ validWord 0x800D#16 = false ∧ validWord 0xE1A0#16 = false ∧
    validWord 0xF0FF#16 = false := by decide

theorem test_truncated_bytes_refused : decodeBytes [0x12#8] = .error .truncated := rfl

theorem test_memory_form_refused :
    Memory.wf [(0x300, 1#8), (0x300, 2#8)] = false ∧ Memory.wf [(0x300, 0#8)] = false ∧
    Memory.wf [(0x000, 0xF0#8)] = false ∧ Memory.wf [(0x1000, 1#8)] = false := by decide

/-! ## Decoding, word by word (section 3.1) -/

theorem test_decode_families_0_to_7 :
    decodeTableWord 16 0x00E0 = some .cls ∧ decodeTableWord 16 0x00EE = some .ret ∧
    decodeTableWord 16 0x1ABC = some (.jp 0xABC#12) ∧ decodeTableWord 16 0x2ABC = some (.call 0xABC#12) ∧
    decodeTableWord 16 0x3A7F = some (.seImm 0xA 0x7F#8) ∧ decodeTableWord 16 0x4A7F = some (.sneImm 0xA 0x7F#8) ∧
    decodeTableWord 16 0x5AB0 = some (.seReg 0xA 0xB) ∧ decodeTableWord 16 0x6A7F = some (.ldImm 0xA 0x7F#8) ∧
    decodeTableWord 16 0x7A7F = some (.addImm 0xA 0x7F#8) := by decide

theorem test_decode_family_8 :
    decodeTableWord 16 0x8AB0 = some (.ldReg 0xA 0xB) ∧ decodeTableWord 16 0x8AB1 = some (.orReg 0xA 0xB) ∧
    decodeTableWord 16 0x8AB2 = some (.andReg 0xA 0xB) ∧ decodeTableWord 16 0x8AB3 = some (.xorReg 0xA 0xB) ∧
    decodeTableWord 16 0x8AB4 = some (.addReg 0xA 0xB) ∧ decodeTableWord 16 0x8AB5 = some (.sub 0xA 0xB) ∧
    decodeTableWord 16 0x8AB6 = some (.shr 0xA 0xB) ∧ decodeTableWord 16 0x8AB7 = some (.subn 0xA 0xB) ∧
    decodeTableWord 16 0x8ABE = some (.shl 0xA 0xB) := by decide

theorem test_decode_families_9_to_E :
    decodeTableWord 16 0x9AB0 = some (.sneReg 0xA 0xB) ∧ decodeTableWord 16 0xAABC = some (.ldI 0xABC#12) ∧
    decodeTableWord 16 0xBABC = some (.jpV0 0xABC#12) ∧ decodeTableWord 16 0xCA7F = some (.rnd 0xA 0x7F#8) ∧
    decodeTableWord 16 0xDAB5 = some (.drw 0xA 0xB 5) ∧ decodeTableWord 16 0xEA9E = some (.skp 0xA) ∧
    decodeTableWord 16 0xEAA1 = some (.sknp 0xA) := by decide

theorem test_decode_family_F :
    decodeTableWord 16 0xFA07 = some (.ldVxDt 0xA) ∧ decodeTableWord 16 0xFA0A = some (.ldVxK 0xA) ∧
    decodeTableWord 16 0xFA15 = some (.ldDtVx 0xA) ∧ decodeTableWord 16 0xFA18 = some (.ldStVx 0xA) ∧
    decodeTableWord 16 0xFA1E = some (.addI 0xA) ∧ decodeTableWord 16 0xFA29 = some (.ldF 0xA) ∧
    decodeTableWord 16 0xFA33 = some (.ldB 0xA) ∧ decodeTableWord 16 0xFA55 = some (.dump 0xA) ∧
    decodeTableWord 16 0xFA65 = some (.load 0xA) := by decide

theorem test_decode_refuses :   -- section 3.2
    decodeTableWord 16 0x0123 = none ∧ decodeTableWord 16 0x5011 = none ∧ decodeTableWord 16 0x8008 = none ∧
    decodeTableWord 16 0xE09F = none ∧ decodeTableWord 16 0xF075 = none := by decide

/-! ## Control transfer (section 2.1) -/

theorem test_ret_pops_the_top :
    let t := runWord 0x00EE ((start [] [] 0).setStack [0x0456#16, 0x0204#16])
    t.pc = 0x0456#16 ∧ t.stack = [0x0204#16] := by decide

theorem test_ret_underflow :
    let t := runWord 0x00EE State.reset
    t.halt = .halted ⟨.stackUnderflow, some 0x00EE#16, 0x0200#16, none⟩ ∧ t.pc = 0x0202#16 := by decide

theorem test_jp : (runWord 0x1234 State.reset).pc = 0x0234#16 := by decide

theorem test_call :
    let t := runWord 0x2300 (State.reset.setPc 0x0202#16)
    t.pc = 0x0300#16 ∧ t.stack = [0x0204#16] := by decide

theorem test_call_overflow_at_depth_16 :
    let t := runWord 0x2300 (State.reset.setStack (List.replicate 16 0x0202#16))
    t.halt = .halted ⟨.stackOverflow, some 0x2300#16, 0x0200#16, none⟩ ∧ t.stack.length = 16 ∧
    t.pc = 0x0202#16 := by decide

theorem test_seImm :
    (runWord 0x3100 State.reset).pc = 0x0204#16 ∧ (runWord 0x3100 (start [(1, 1#8)] [] 0)).pc = 0x0202#16 := by
  decide

theorem test_sneImm :
    (runWord 0x4210 (start [(2, 0x10#8)] [] 0)).pc = 0x0202#16 ∧
    (runWord 0x4210 (start [(2, 0x11#8)] [] 0)).pc = 0x0204#16 := by decide

theorem test_seReg :
    (runWord 0x5340 (start [(3, 0x7F#8), (4, 0x7F#8)] [] 0)).pc = 0x0204#16 ∧
    (runWord 0x5340 (start [(3, 0x7F#8), (4, 0x7E#8)] [] 0)).pc = 0x0202#16 := by decide

theorem test_sneReg :
    (runWord 0x9340 (start [(3, 1#8), (4, 2#8)] [] 0)).pc = 0x0204#16 ∧
    (runWord 0x9330 (start [(3, 9#8)] [] 0)).pc = 0x0202#16 := by decide

theorem test_jpV0_sum_is_held_in_full : (runWord 0xBFFF (start [(0, 0xFF#8)] [] 0)).pc = 0x10FE#16 := by decide

/-! ## Registers and ALU (section 2.2) -/

theorem test_ldImm : (runWord 0x6A2B State.reset).reg 0xA = 0x2B#8 := by decide

theorem test_addImm_loses_the_carry :
    let t := runWord 0x7101 (start [(1, 0xFF#8)] [] 0)
    t.reg 1 = 0#8 ∧ t.reg vf = 0#8 := by decide

theorem test_ldReg : (runWord 0x8120 (start [(2, 0x55#8)] [] 0)).reg 1 = 0x55#8 := by decide

theorem test_or_keeps_vf :
    let t := runWord 0x8121 (start [(1, 0xF0#8), (2, 0x0F#8), (vf, 1#8)] [] 0)
    t.reg 1 = 0xFF#8 ∧ t.reg vf = 1#8 := by decide

theorem test_and : (runWord 0x8122 (start [(1, 0xF3#8), (2, 0x3C#8)] [] 0)).reg 1 = 0x30#8 := by decide

theorem test_xor : (runWord 0x8123 (start [(1, 0xFF#8), (2, 0x0F#8)] [] 0)).reg 1 = 0xF0#8 := by decide

theorem test_add_carries :
    let t := runWord 0x8124 (start [(1, 0xFF#8), (2, 0x01#8)] [] 0)
    t.reg 1 = 0#8 ∧ t.reg vf = 1#8 := by decide

theorem test_add_into_vf_ends_as_the_carry :
    (runWord 0x8F14 (start [(vf, 0x01#8), (1, 0x02#8)] [] 0)).reg vf = 0#8 := by decide

theorem test_sub_borrows :
    let t := runWord 0x8125 (start [(1, 0x05#8), (2, 0x0A#8)] [] 0)
    t.reg 1 = 0xFB#8 ∧ t.reg vf = 0#8 := by decide

theorem test_sub_equal_is_no_borrow :
    let t := runWord 0x8125 (start [(1, 0x07#8), (2, 0x07#8)] [] 0)
    t.reg 1 = 0#8 ∧ t.reg vf = 1#8 := by decide

theorem test_shr_ignores_vy :
    let t := runWord 0x8126 (start [(1, 0x05#8), (2, 0xFF#8)] [] 0)
    t.reg 1 = 0x02#8 ∧ t.reg 2 = 0xFF#8 ∧ t.reg vf = 1#8 := by decide

theorem test_shr_of_vf_ends_as_the_flag : (runWord 0x8F06 (start [(vf, 0x02#8)] [] 0)).reg vf = 0#8 := by decide

theorem test_subn :
    let t := runWord 0x8127 (start [(1, 0x0A#8), (2, 0x05#8)] [] 0)
    t.reg 1 = 0xFB#8 ∧ t.reg vf = 0#8 := by decide

theorem test_shl :
    let t := runWord 0x812E (start [(1, 0x81#8)] [] 0)
    t.reg 1 = 0x02#8 ∧ t.reg vf = 1#8 := by decide

theorem test_rnd_mask_zero :   -- whatever the draw, a mask of 0 gives 0
    let t := runWord 0xC300 (start [(3, 0x55#8)] [] 0)
    t.reg 3 = 0#8 ∧ t.draws = 1 := by
  refine ⟨?_, by decide⟩
  show Config.randomByte 0 &&& 0#8 = 0#8
  exact BitVec.and_zero

/-! ## Index register and memory (section 2.3) -/

theorem test_ldI : (runWord 0xA300 State.reset).index = 0x0300#16 := by decide

theorem test_addI_past_0xFFF :
    let t := runWord 0xFF1E (start [(vf, 1#8)] [] 0x0FFF#16)
    t.index = 0x1000#16 ∧ t.reg vf = 1#8 := by decide

theorem test_addI_overflow :
    let t := runWord 0xF21E (start [(2, 0xFF#8)] [] 0xFF01#16)
    t.halt = .halted ⟨.addressOutOfRange, some 0xF21E#16, 0x0200#16, some 0x10000⟩ ∧ t.index = 0xFF01#16 := by
  decide

theorem test_ldF_is_not_masked : (runWord 0xF429 (start [(4, 0xFF#8)] [] 0)).index = 0x04FB#16 := by decide

theorem test_ldB_255 :
    (runWord 0xF533 (start [(5, 0xFF#8)] [] 0x0FFD#16)).mem.readBytes 0xFFD 3 = [2#8, 5#8, 5#8] := by decide

theorem test_ldB_out_of_range :
    let t := runWord 0xF533 (start [(5, 0xFF#8)] [] 0x0FFE#16)
    t.halt = .halted ⟨.addressOutOfRange, some 0xF533#16, 0x0200#16, some 0x1000⟩ ∧
    t.mem.readBytes 0xFFE 2 = [0#8, 0#8] := by decide

theorem test_dump :
    let t := runWord 0xF155 (start [(0, 0x11#8), (1, 0x22#8), (2, 0x33#8)] [] 0x0300#16)
    t.mem.readBytes 0x300 4 = [0x11#8, 0x22#8, 0#8, 0#8] ∧ t.index = 0x0300#16 := by decide

theorem test_load_keeps_the_registers_above :
    let t := runWord 0xF265 (start [(3, 0x99#8)] [(0x300, 2#8), (0x301, 5#8), (0x302, 4#8), (0x303, 7#8)] 0x0300#16)
    t.reg 0 = 2#8 ∧ t.reg 1 = 5#8 ∧ t.reg 2 = 4#8 ∧ t.reg 3 = 0x99#8 ∧ t.index = 0x0300#16 := by decide

theorem test_load_of_the_font : (runWord 0xF165 State.reset).reg 1 = 0x90#8 := by decide

/-! ## Keypad, timers and host actions (section 2.4) -/

theorem test_skp :
    let keys : Keypad := (Vector.replicate 16 false).set 7 true
    (runWord 0xE39E ((start [(3, 7#8)] [] 0).setKeys keys)).pc = 0x0204#16 ∧
    (runWord 0xE39E (start [(3, 7#8)] [] 0)).pc = 0x0202#16 := by decide

theorem test_skp_of_no_slot :
    (runWord 0xE39E (start [(3, 0x10#8)] [] 0)).halt =
      .halted ⟨.addressOutOfRange, some 0xE39E#16, 0x0200#16, some 0x10⟩ := by decide

theorem test_sknp :
    let keys : Keypad := (Vector.replicate 16 false).set 7 true
    (runWord 0xE3A1 ((start [(3, 7#8)] [] 0).setKeys keys)).pc = 0x0202#16 ∧
    (runWord 0xE3A1 (start [(3, 7#8)] [] 0)).pc = 0x0204#16 := by decide

theorem test_ldVxDt : (runWord 0xF107 (State.reset.setDt 5#8)).reg 1 = 5#8 := by decide

theorem test_ldDtVx :
    let t := runWord 0xF015 (start [(0, 7#8)] [] 0)
    t.dt = 7#8 ∧ t.st = 0#8 := by decide

theorem test_ldStVx :
    let t := runWord 0xF218 (start [(2, 0x1E#8)] [] 0)
    t.st = 0x1E#8 ∧ t.dt = 0#8 := by decide

theorem test_key_wait_repeats :
    let t := runWord 0xF50A (start [(5, 0x33#8)] [] 0)
    t.pc = 0x0200#16 ∧ t.reg 5 = 0x33#8 := by decide

theorem test_key_wait_takes_the_key_down :
    let t := runWord 0xF50A ((start [(5, 0x33#8)] [] 0).setKeys ((Vector.replicate 16 false).set 0 true))
    t.pc = 0x0202#16 ∧ t.reg 5 = 0#8 := by decide

theorem test_tick_stops_at_zero :
    let t := hostTick (State.reset.setDt 1#8)
    t.dt = 0#8 ∧ t.st = 0#8 ∧ (hostTick t).dt = 0#8 := by decide

theorem test_ports_of_a_halted_machine :   -- P6, `00 EE`
    let p := (Platform.mk (runWord 0x00EE State.reset) false).ports
    p.halted = true ∧ p.faultKind = 3 ∧ p.faultWord = some 0x00EE#16 ∧ p.faultPc = some 0x0200#16 ∧
    p.faultAddr = none := by decide

theorem test_load_error_until_the_next_reset :   -- R259, R272
    loadErrorAfter (.reset (List.replicate 0xE01 0#8)) false = true ∧ loadErrorAfter .tick true = true ∧
    loadErrorAfter (.reset []) true = false := by
  refine ⟨?_, by decide, by decide⟩
  rw [loadErrorAfter, imageFits, List.length_replicate]; rfl

/-- A FONT that is not the default: 80 bytes of 0xAB. -/
def otherFont : Font := Vector.replicate 80 0xAB#8

theorem test_reset_copies_the_font_it_is_given :   -- R270, the addresses where the ranges of R43 meet
    let t := (hostReset otherFont [0x12#8] State.reset).1
    t.mem.read 0x000 = 0xAB#8 ∧ t.mem.read 0x04F = 0xAB#8 ∧ t.mem.read 0x050 = 0#8 ∧ t.mem.read 0x1FF = 0#8 ∧
    t.mem.read 0x200 = 0x12#8 ∧ t.mem.read 0x201 = 0#8 ∧ t.mem.read 0xFFF = 0#8 := by decide

/-! ## Fetch (section 2.5) -/

theorem test_fetch_at_0xFFE :
    let t := runWord 0x60AB (State.reset.setPc 0x0FFE#16)
    t.reg 0 = 0xAB#8 ∧ t.pc = 0x1000#16 := by decide

theorem test_fetch_at_0xFFF :
    let t := stateOf (step (State.reset.setPc 0x0FFF#16))
    t.halt = .halted ⟨.addressOutOfRange, none, 0x0FFF#16, some 0x1000⟩ ∧ t.pc = 0x0FFF#16 := by decide

theorem test_fetch_at_an_odd_pc :
    let t := runWord 0x6A2B (State.reset.setPc 0x0201#16)
    t.reg 0xA = 0x2B#8 ∧ t.pc = 0x0203#16 := by decide

theorem test_invalid_word :   -- P6, `01 23`
    let t := runWord 0x0123 State.reset
    t.halt = .halted ⟨.invalidOpcode, some 0x0123#16, 0x0200#16, none⟩ ∧ t.pc = 0x0202#16 := by decide

/-! ## Display (section 2.6) -/

theorem test_cls :
    let lit := State.reset.setFb (Framebuffer.setCell clearScreen 31 63 true)
    litCells lit [31] [63] = [(31, 63)] ∧ litCells (runWord 0x00E0 lit) [31] [63] = [] := by decide

theorem test_draw_msb_first :
    litCells (runWord 0xD011 (start [] [(0x300, 0xA5#8)] 0x0300#16)) [0, 1] [0, 1, 2, 3, 4, 5, 6, 7] =
      [(0, 0), (0, 2), (0, 5), (0, 7)] := by decide

theorem test_draw_wraps_rows_and_columns :
    litCells (runWord 0xD012 (start [(0, 60#8), (1, 31#8)] [(0x300, 0x88#8), (0x301, 0x88#8)] 0x0300#16))
      [31, 0, 1] [60, 61, 0, 1] = [(31, 60), (31, 0), (0, 60), (0, 0)] := by decide

/-! ## Witnesses for the hypotheses of the statements -/

/-- Reset with one instruction at the pc. -/
def ready (w : Nat) : State := State.reset.withFetchWord 16 w

theorem witness_EncodeOfDecodeIsTheWord : decode 0x8AB6#16 = .ok (.shr 0xA 0xB) := rfl

theorem witness_DecodeAcceptsExactlyTheTableWords :
    decode 0x8AB6#16 = .ok (.shr 0xA 0xB) ∧
    (∃ r ∈ opcodeTable, 0xF00A#16 &&& r.mask = r.pattern) ∧
    (∀ r ∈ opcodeTable, 0x0000#16 &&& r.mask ≠ r.pattern) := by decide

theorem witness_StepRunsTheDecodedInstruction :
    let s := (State.reset.setPc 0x0FFE#16).withFetchWord 16 0x60AB
    s.halt = .running ∧ s.pc.toNat + 1 ≤ 0xFFF ∧
    decodeBytes [s.mem.read s.pc.toNat, s.mem.read (s.pc.toNat + 1)] = .ok (.ldImm 0 0xAB#8, []) := by decide

theorem witness_FetchPastTheEndHalts :
    let s := State.reset.setPc 0x0FFF#16
    s.halt = .running ∧ 0xFFF ≤ s.pc.toNat := by decide

theorem witness_InvalidWordHaltsWithWordAndPc :
    let s := ready 0x0123
    s.halt = .running ∧ s.pc.toNat + 1 ≤ 0xFFF ∧ decode s.fetchWord = .error (.invalidOpcode 0x0123#16) := by
  decide

theorem witness_HaltedMachineWaitsForReset :
    (runWord 0x00EE State.reset).halt = .halted ⟨.stackUnderflow, some 0x00EE#16, 0x0200#16, none⟩ ∧
    (∀ image, HostAction.tick ≠ .reset image) ∧ (List.replicate 0xE00 (0#8 : Byte)).length ≤ 0xE00 ∧
    0xE00 < (List.replicate 0xE01 (0#8 : Byte)).length := by
  refine ⟨by decide, fun _ => nofun, by rw [List.length_replicate], by rw [List.length_replicate]; decide⟩

/-- Each of the three conditions is raised somewhere. -/
theorem witness_FatalConditionsArePrecise :
    State.reset.halt = .running ∧
    (∃ t, exec .ret State.reset = .next t ∧ t.halt ≠ .running) ∧
    (∃ t, exec (.call 0x300#12) (State.reset.setStack (List.replicate 16 0x0202#16)) = .next t ∧
      t.halt ≠ .running) ∧
    (∃ t, exec (.ldB 0) (State.reset.setIndex 0x0FFE#16) = .next t ∧ t.halt ≠ .running) := by
  refine ⟨rfl, ⟨_, rfl, by decide⟩, ⟨_, rfl, by decide⟩, ⟨_, rfl, by decide⟩⟩

theorem witness_RetPopsOrUnderflows :
    (State.reset.setStack [0x0204#16]).stack = 0x0204#16 :: [] ∧ State.reset.stack = [] := by decide

theorem witness_CallPushesOrOverflows :
    (State.reset.setStack (List.replicate 15 0x0202#16)).stack.length < 16 ∧
    16 ≤ (State.reset.setStack (List.replicate 16 0x0202#16)).stack.length := by decide

theorem witness_ReturnUndoesCall :
    let s := State.reset.setStack (List.replicate 15 0x0202#16)
    s.stack.length < 16 ∧ ∃ t, exec (.call 0x300#12) s = .next t ∧ (t.setDt 7#8).stack = t.stack :=
  ⟨by decide, _, rfl, rfl⟩

theorem witness_OtherInstructionsLeaveThePc :
    writesPc (.ldB 0) = false ∧ ∃ t, exec (.ldB 0) State.reset = .next t := ⟨rfl, _, rfl⟩

theorem witness_InstructionsWriteOnlyTheirRegisters :
    writesReg (.load 3) 4 = false ∧ writesReg (.load 3) 3 = true ∧ ∃ t, exec (.load 3) State.reset = .next t :=
  ⟨rfl, rfl, _, rfl⟩

theorem witness_AddToIndexNeverWraps :
    let s := start [(2, 0xFF#8)] [] 0xFF00#16
    let u := start [(2, 0xFF#8)] [] 0xFF01#16
    s.index.toNat + (s.reg 2).toNat ≤ 0xFFFF ∧ 0xFFFF < u.index.toNat + (u.reg 2).toNat := by decide

theorem witness_BcdStoresThreeDigits :
    (State.reset.setIndex 0x0FFD#16).index.toNat + 2 ≤ 0xFFF ∧
    0xFFF < (State.reset.setIndex 0x0FFE#16).index.toNat + 2 := by decide

/-- For the dump and for the load. -/
theorem witness_DumpStoresV0ToVx :
    (State.reset.setIndex 0x0FF0#16).index.toNat + (15 : Reg).val ≤ 0xFFF ∧
    0xFFF < (State.reset.setIndex 0x0FF1#16).index.toNat + (15 : Reg).val := by decide

theorem witness_LoadFillsV0ToVx :
    (State.reset.setIndex 0x0FFF#16).index.toNat + (0 : Reg).val ≤ 0xFFF ∧
    0xFFF < (State.reset.setIndex 0x1000#16).index.toNat + (0 : Reg).val := by decide

theorem witness_LoadAfterDumpRestoresRegisters :
    let s := start [(0, 1#8), (1, 2#8)] [] 0x0300#16
    s.index.toNat + (1 : Reg).val ≤ 0xFFF ∧ ∃ t, exec (.dump 1) s = .next t ∧
    (t.setReg 0 9#8).mem = t.mem ∧ (t.setReg 0 9#8).index = s.index := ⟨by decide, _, rfl, rfl, rfl⟩

/-- The fourth step of program P5, a dump that covers both bytes of the next fetch; a dump whose last byte is the
first byte of the fetch; a BCD store whose first byte is the second byte of the fetch. -/
theorem witness_StoreIsSeenByTheNextFetch :
    let s := (start [(0, 0x12#8), (1, 0x0A#8)] [] 0x0208#16).setPc 0x0208#16
    let d := (start [(0, 0x60#8)] [(0x301, 0xAB#8)] 0x0300#16).setPc 0x0300#16
    let b := (start [(3, 0xFF#8)] [(0x300, 0x60#8)] 0x0301#16).setPc 0x0300#16
    (s.halt = .running ∧ s.pc.toNat + 1 ≤ 0xFFF ∧ s.index.toNat + (1 : Reg).val ≤ 0xFFF ∧
      (∃ t, exec (.dump 1) s = .next t ∧ t.halt = .running ∧ t.pc = s.pc) ∧
      decode (wordOfBytes (s.byteAfterDump 1 0x208) (s.byteAfterDump 1 0x209)) = .ok (.jp 0x20A#12)) ∧
    ((∃ t, exec (.dump 0) d = .next t ∧ t.halt = .running ∧ t.pc = d.pc) ∧
      decode (wordOfBytes (d.byteAfterDump 0 0x300) (d.byteAfterDump 0 0x301)) = .ok (.ldImm 0 0xAB#8)) ∧
    (b.index.toNat + 2 ≤ 0xFFF ∧ (∃ t, exec (.ldB 3) b = .next t ∧ t.halt = .running ∧ t.pc = b.pc) ∧
      decode (wordOfBytes (b.byteAfterBcd 3 0x300) (b.byteAfterBcd 3 0x301)) = .ok (.ldImm 0 2#8)) :=
  ⟨⟨by decide, by decide, by decide, ⟨_, rfl, by decide, by decide⟩, by decide⟩,
    ⟨⟨_, rfl, by decide, by decide⟩, by decide⟩, by decide, ⟨_, rfl, by decide, by decide⟩, by decide⟩

/-- Two different histories, one memory: 5 stored, and 9 stored and replaced. -/
theorem witness_CanonicalMemoriesWithEqualReadsAreEqual :
    let m := Memory.write [] 0x300 5#8
    let m' := Memory.write (Memory.write [] 0x300 9#8) 0x300 5#8
    m.wf = true ∧ m'.wf = true ∧ ∀ a, m.read a = m'.read a := by
  refine ⟨by decide, by decide, fun a => ?_⟩
  simp only [Memory.read_write]
  split <;> rfl

theorem witness_DrawXorsTheSpriteAndReportsCollision :
    ((0 : Fin 16).val = 0 ∨ (State.reset.setIndex 0xFFFF#16).index.toNat + (0 : Fin 16).val - 1 ≤ 0xFFF) ∧
    ((15 : Fin 16).val = 0 ∨ (State.reset.setIndex 0x0FF1#16).index.toNat + (15 : Fin 16).val - 1 ≤ 0xFFF) := by
  decide

theorem witness_SpritePastTheEndHalts :
    1 ≤ (15 : Fin 16).val ∧ 0xFFF < (State.reset.setIndex 0x0FF2#16).index.toNat + (15 : Fin 16).val - 1 := by
  decide

theorem witness_DrawingTwiceRestoresTheDisplay :
    let s := start [] [(0x300, 0xFF#8)] 0x0300#16
    (0 : Reg) ≠ vf ∧ (1 : Reg) ≠ vf ∧
    ((1 : Fin 16).val = 0 ∨ s.index.toNat + (1 : Fin 16).val - 1 ≤ 0xFFF) ∧
    ∃ t u, exec (.drw 0 1 1) s = .next t ∧ exec (.drw 0 1 1) t = .next u :=
  ⟨by decide, by decide, by decide, _, _, rfl, rfl⟩

theorem witness_KeySkipsTestTheNamedSlot :
    ((start [(3, 15#8)] [] 0).reg 3).toNat = (15 : Key).val ∧ 15 < ((start [(3, 16#8)] [] 0).reg 3).toNat := by
  decide

/-- No key, one key, two keys. -/
theorem witness_KeyWaitRewindsOrStoresAPressedKey :
    let one := State.reset.setKeys ((Vector.replicate 16 false).set 15 true)
    let two := State.reset.setKeys (((Vector.replicate 16 false).set 3 true).set 12 true)
    (∀ k, State.reset.keyDown k = false) ∧
    (one.keyDown 15 = true ∧ ∀ p, one.keyDown p = true → p = 15) ∧
    (two.keyDown 3 = true ∧ two.keyDown 12 = true) := by decide

theorem witness_KeyWaitRepeatsWithoutAKey :
    let s := ready 0xF00A
    s.halt = .running ∧ s.pc.toNat + 1 ≤ 0xFFF ∧ decode s.fetchWord = .ok (.ldVxK 0) ∧
    ∀ k, s.keyDown k = false := by decide

theorem witness_OtherInstructionsIgnoreTheKeypad :
    (∀ x : Reg, Instr.ldVxDt 1 ≠ .skp x ∧ Instr.ldVxDt 1 ≠ .sknp x ∧ Instr.ldVxDt 1 ≠ .ldVxK x) ∧
    ∃ t, exec (.ldVxDt 1) State.reset = .next t := ⟨by decide, _, rfl⟩

/-- A step that runs LD ST, V2 and one that does not. -/
theorem witness_NoStepReadsTheSoundTimer :
    ((∃ t, step (ready 0xF218) = .next t) ∧ (ready 0xF218).Runs (.ldStVx 2)) ∧
    ((∃ t, step (ready 0xF215) = .next t) ∧ ∀ x, ¬ (ready 0xF215).Runs (.ldStVx x)) := by
  refine ⟨⟨⟨_, rfl⟩, by decide, by decide, by decide⟩, ⟨_, rfl⟩, fun x h => ?_⟩
  have hd : decode (ready 0xF215).fetchWord = .ok (.ldDtVx 2) := by decide
  exact absurd (hd.symm.trans h.2.2) (by simp)

/-- DT changes by LD DT, the halt state by an instruction that checks an index. -/
theorem witness_EachRegisterHasItsWriters :
    (∃ t, exec (.ldDtVx 0) (start [(0, 7#8)] [] 0) = .next t ∧ t.dt ≠ 0#8) ∧
    (∃ t, exec (.ldB 0) (State.reset.setIndex 0x0FFE#16) = .next t ∧ t.halt ≠ State.reset.halt) ∧
    ∃ t, exec (.jp 0x300#12) State.reset = .next t ∧ t.pc ≠ State.reset.pc :=
  ⟨⟨_, rfl, by decide⟩, ⟨_, rfl, by decide⟩, _, rfl, by decide⟩

theorem witness_ResetLeavesTheSpecifiedState :
    (List.replicate 0xE00 (0xFF#8 : Byte)).length ≤ 0xE00 ∧ ([] : List Byte).length ≤ 0xE00 := by
  rw [List.length_replicate]; decide

theorem witness_TooLongAnImageIsRefused : 0xE00 < (List.replicate 0xE01 (0#8 : Byte)).length := by
  rw [List.length_replicate]; decide

theorem witness_TerminalStateRepeats : (ready 0x1200).Terminal :=
  ⟨by decide, by decide, 0x200#12, by decide, by decide⟩

theorem witness_StepKeepsTheInvariant : (ready 0x2300).Inv ∧ ∃ t, step (ready 0x2300) = .next t :=
  ⟨⟨by decide, by decide, by decide, fun a h => absurd (show a ∈ ([] : List Word) from h) (by simp), trivial⟩, _, rfl⟩

/-- A running platform and a halted one, and a step at the ports. -/
theorem witness_PortsShowTheRecordAndTheLastReset :
    let p : Platform := ⟨ready 0x00EE, true⟩
    p.machine.halt = .running ∧ ∃ q, move otherFont .step p = .next q ∧
    q.machine.halt = .halted ⟨.stackUnderflow, some 0x00EE#16, 0x0200#16, none⟩ :=
  ⟨by decide, _, rfl, by decide⟩

/-- The invariant also holds of a halted Machine, and a host action applies to it. -/
theorem witness_HostActionsKeepTheInvariant : (runWord 0x00EE State.reset).Inv := by
  refine ⟨by decide, by decide, by decide, fun a h => absurd (show a ∈ ([] : List Word) from h) (by simp), ?_⟩
  have h : (runWord 0x00EE State.reset).halt =
      .halted ⟨.stackUnderflow, some 0x00EE#16, 0x0200#16, none⟩ := by decide
  simp only [State.HaltAgrees, h]
  exact ⟨rfl, by decide⟩

theorem witness_EveryRunMeetsTheInvariant : (Platform.mk (ready 0x2300) false).machine.Inv :=
  witness_StepKeepsTheInvariant.1

end Sys2Proof.Tests
end

section
/-! What Reset with an image that fits leaves of each piece of state (spec/10_state.md R43;
spec/70_reset_and_hazards.md R270). -/

namespace Sys2Proof.Machine

/-! ## Reset as a host action -/

theorem imageFits_iff (image : List Byte) : imageFits image = true ↔ image.length ≤ 0xE00 := by
  simp only [imageFits, maxProg, decide_eq_true_eq]

theorem hostAct_reset_of_fits (font : Font) {image : List Byte} (s : State) (h : image.length ≤ 0xE00) :
    hostAct font (.reset image) s = (State.afterReset font image s.draws, .done) := by
  simp only [hostAct, hostReset, (imageFits_iff image).2 h, if_true]

/-! ## The reset state, read slot by slot -/

@[simp] theorem State.reg_reset (z : Reg) : State.reset.reg z = 0#8 := by
  simp only [State.reg, State.reset, Vector.get_eq_getElem, Vector.getElem_replicate]

@[simp] theorem State.keyDown_reset (k : Key) : State.reset.keyDown k = false := by
  simp only [State.keyDown, State.reset, Vector.get_eq_getElem, Vector.getElem_replicate]

/-! ## The fields of `afterReset`, at the values of R43's table -/

section AfterReset

variable (font : Font) (image : List Byte) (n : Nat)

@[simp] theorem State.reg_afterReset (z : Reg) : (State.afterReset font image n).reg z = 0#8 :=
  State.reg_reset z
@[simp] theorem State.afterReset_index : (State.afterReset font image n).index = 0#16 := rfl
@[simp] theorem State.afterReset_pc : (State.afterReset font image n).pc = 0x0200#16 := rfl
@[simp] theorem State.afterReset_stack : (State.afterReset font image n).stack = [] := rfl
@[simp] theorem State.afterReset_fb : (State.afterReset font image n).fb = clearScreen := rfl
@[simp] theorem State.afterReset_dt : (State.afterReset font image n).dt = 0#8 := rfl
@[simp] theorem State.afterReset_st : (State.afterReset font image n).st = 0#8 := rfl
@[simp] theorem State.keyDown_afterReset (k : Key) :
    (State.afterReset font image n).keyDown k = false := State.keyDown_reset k
@[simp] theorem State.afterReset_halt : (State.afterReset font image n).halt = .running := rfl
@[simp] theorem State.afterReset_mem : (State.afterReset font image n).mem = resetMemory font image := rfl

end AfterReset

/-! ## The four address ranges of the memory after Reset (R43) -/

theorem read_resetMemory_font (font : Font) (image : List Byte) (j : Fin 80) :
    (resetMemory font image).read j.val = font.get j := by
  rw [read_resetMemory, if_neg (by omega), dif_pos j.isLt, Vector.get_eq_getElem]

theorem read_resetMemory_between (font : Font) (image : List Byte) {a : Nat} (hlo : 0x050 ≤ a) (hhi : a < 0x200) :
    (resetMemory font image).read a = 0#8 := by
  rw [read_resetMemory, if_neg (by omega), dif_neg (by omega)]

theorem read_resetMemory_image (font : Font) {image : List Byte} {j : Nat} (h : j < image.length) :
    (resetMemory font image).read (0x200 + j) = image.getD j 0#8 := by
  rw [read_resetMemory, if_pos (by omega), Nat.add_sub_cancel_left]

theorem read_resetMemory_above (font : Font) {image : List Byte} {a : Nat} (h : 0x200 + image.length ≤ a) :
    (resetMemory font image).read a = 0#8 := by
  rw [read_resetMemory, if_neg (by omega), dif_neg (by omega)]

/-- Settles O46: the state is `State.afterReset`, whose fields have the table's values, and each address range of
the memory is read by its own lemma. -/
theorem resetLeavesTheSpecifiedState : Obligations.ResetLeavesTheSpecifiedState := by
  intro font image s hlen
  refine ⟨State.afterReset font image s.draws, hostAct_reset_of_fits font s hlen,
    State.reg_afterReset font image _, State.afterReset_index .., State.afterReset_pc .., State.afterReset_stack ..,
    fun r c => ?cells, State.afterReset_dt .., State.afterReset_st .., State.keyDown_afterReset font image _,
    ?memory⟩
  case cells => rw [State.afterReset_fb, cell_clearScreen]
  case memory =>
    rw [State.afterReset_mem]
    exact ⟨read_resetMemory_font font image, fun _ => read_resetMemory_between font image,
      fun _ => read_resetMemory_image font, fun _ h _ => read_resetMemory_above font h, State.afterReset_halt ..⟩

end Sys2Proof.Machine
end

section
/-! The value of the fetched word (spec/20_memory.md R64). -/

namespace Sys2Proof.Machine

/-- Settles O5: the fetched word is `wordOfBytes` of the two bytes at the pc, whose value `toNat_wordOfBytes`
gives. -/
theorem fetchedWordIsBigEndian : Obligations.FetchedWordIsBigEndian := by
  intro s
  rw [State.fetchWord]
  exact toNat_wordOfBytes (s.mem.read s.pc.toNat) (s.mem.read (s.pc.toNat + 1))

end Sys2Proof.Machine
end

section
/-! The jump to an immediate address and the four compare-and-skip instructions (spec/40_control_flow.md R121,
R123 to R126). -/

namespace Sys2Proof.Machine

/-! ## JP -/

theorem exec_jp (nnn : Addr12) (s : State) : exec (.jp nnn) s = .next { s with pc := extendNnn nnn } := rfl

/-- Settles O13: the target is `extendNnn nnn`, whose value is that of nnn. -/
theorem jumpSetsThePc : Obligations.JumpSetsThePc := by
  intro s nnn
  exact ⟨extendNnn nnn, toNat_extendNnn nnn, exec_jp nnn s⟩

/-! ## The compare-and-skip instructions -/

theorem exec_seImm (x : Reg) (kk : Byte) (s : State) :
    exec (.seImm x kk) s = .next (s.skipIf (s.reg x == kk)) := rfl

theorem exec_sneImm (x : Reg) (kk : Byte) (s : State) :
    exec (.sneImm x kk) s = .next (s.skipIf (s.reg x != kk)) := rfl

theorem exec_seReg (x y : Reg) (s : State) :
    exec (.seReg x y) s = .next (s.skipIf (s.reg x == s.reg y)) := rfl

theorem exec_sneReg (x y : Reg) (s : State) :
    exec (.sneReg x y) s = .next (s.skipIf (s.reg x != s.reg y)) := rfl

/-- A skip whose Boolean test decides `p` moves the pc by `p` and writes nothing else. -/
theorem State.skipIf_of_iff (s : State) {c : Bool} {p : Prop} [Decidable p] (h : c = true ↔ p) :
    s.skipIf c = { s with pc := if p then s.pc + 2#16 else s.pc } := by
  rw [State.skipIf_eq, if_congr h rfl rfl, State.setPc]

/-- Settles O16: each of the four is one skip, on a Boolean test that decides the comparison. -/
theorem skipsCompareAndAdvanceThePc : Obligations.SkipsCompareAndAdvanceThePc := by
  intro s x y kk
  refine ⟨?seImm, ?sneImm, ?seReg, ?sneReg⟩
  case seImm => rw [exec_seImm, s.skipIf_of_iff beq_iff_eq]
  case sneImm => rw [exec_sneImm, s.skipIf_of_iff bne_iff_ne]
  case seReg => rw [exec_seReg, s.skipIf_of_iff beq_iff_eq]
  case sneReg => rw [exec_sneReg, s.skipIf_of_iff bne_iff_ne]

end Sys2Proof.Machine
end

section
/-! The instructions that write one register, and ADD with an immediate operand (spec/41_alu.md R141). -/

namespace Sys2Proof.Machine

/-- Writing one register meets the frame the statements about such instructions ask for. -/
theorem State.writesReg_setReg (s : State) (x : Reg) (b : Byte) : s.WritesReg (s.setReg x b) x b :=
  ⟨rfl, fun z => s.reg_setReg x z b⟩

theorem exec_addImm (x : Reg) (kk : Byte) (s : State) :
    exec (.addImm x kk) s = .next (s.setReg x (s.reg x + kk)) := rfl

/-- Settles O20: the one register written gets the sum of two bytes as a byte, whose value is the sum modulo 256. -/
theorem addImmediateWraps : Obligations.AddImmediateWraps := by
  intro s x kk
  exact ⟨s.setReg x (s.reg x + kk), s.reg x + kk, exec_addImm x kk s, s.writesReg_setReg x _,
    BitVec.toNat_add (s.reg x) kk⟩

end Sys2Proof.Machine
end

section
/-! The two loads of the index register (spec/42_index_memory.md R170 and R172). -/

namespace Sys2Proof.Machine

theorem exec_ldI (nnn : Addr12) (s : State) : exec (.ldI nnn) s = .next { s with index := extendNnn nnn } := rfl

theorem exec_ldF (x : Reg) (s : State) :
    exec (.ldF x) s = .next { s with index := BitVec.ofNat 16 (5 * (s.reg x).toNat) } := rfl

/-- Five times a byte is at most 1275, so the index register holds the product in full. -/
theorem toNat_ofNat_five_mul (b : Byte) : (BitVec.ofNat 16 (5 * b.toNat)).toNat = 5 * b.toNat := by
  have hb : b.toNat < 2 ^ 8 := b.isLt
  rw [BitVec.toNat_ofNat, Nat.mod_eq_of_lt (by omega)]

/-- Settles O27: the word loaded is `extendNnn nnn` for LD I, and for LD F a product that fits the register. -/
theorem indexLoadsWriteIAlone : Obligations.IndexLoadsWriteIAlone := by
  intro s x nnn
  exact ⟨⟨extendNnn nnn, toNat_extendNnn nnn, exec_ldI nnn s⟩,
    ⟨_, toNat_ofNat_five_mul (s.reg x), exec_ldF x s⟩⟩

end Sys2Proof.Machine
end

section
/-! CLS (spec/43_display.md R190). -/

namespace Sys2Proof.Machine

theorem exec_cls (s : State) : exec .cls s = .next (s.setFb clearScreen) := rfl

/-- Settles O35: CLS replaces the framebuffer by `clearScreen`, and no cell of that is lit. -/
theorem clearUnlightsEveryCell : Obligations.ClearUnlightsEveryCell := by
  intro s
  refine ⟨s.setFb clearScreen, exec_cls s, ?frame, ?cells⟩
  case frame => rw [State.setFb_fb, State.setFb]
  case cells =>
    intro r c
    rw [State.setFb_fb, cell_clearScreen]

end Sys2Proof.Machine
end

section
/-! The instructions that move a byte between a register and a timer (spec/44_keypad_timers.md R212, R214 and
R215). -/

namespace Sys2Proof.Machine

theorem exec_ldVxDt (x : Reg) (s : State) : exec (.ldVxDt x) s = .next (s.setReg x s.dt) := rfl

theorem exec_ldDtVx (x : Reg) (s : State) : exec (.ldDtVx x) s = .next { s with dt := s.reg x } := rfl

theorem exec_ldStVx (x : Reg) (s : State) : exec (.ldStVx x) s = .next { s with st := s.reg x } := rfl

/-- Settles O40: LD Vx,DT is one register write, whose frame `State.writesReg_setReg` gives; the two timer loads
each replace one field. -/
theorem timerInstructionsMoveOneByte : Obligations.TimerInstructionsMoveOneByte := by
  intro s x
  exact ⟨⟨s.setReg x s.dt, exec_ldVxDt x s, s.writesReg_setReg x s.dt⟩, exec_ldDtVx x s, exec_ldStVx x s⟩

end Sys2Proof.Machine
end

section
/-! SetKeys, Tick and the two reads as host actions (spec/60_exceptions.md R248 to R251). -/

namespace Sys2Proof.Machine

/-! ## SetKeys (R248) -/

theorem hostAct_setKeys (font : Font) (keys : Keypad) (s : State) :
    hostAct font (.setKeys keys) s = (s.setKeys keys, .done) := rfl

@[simp] theorem State.keyDown_setKeys (s : State) (keys : Keypad) (k : Key) :
    (s.setKeys keys).keyDown k = keys.get k := rfl

/-- Settles O49: SetKeys replaces the keypad as a whole, and each slot of the new one is the one given. -/
theorem setKeysWritesAllSlots : Obligations.SetKeysWritesAllSlots := by
  intro font s keys
  refine ⟨s.setKeys keys, hostAct_setKeys font keys s, ?frame, s.keyDown_setKeys keys⟩
  case frame => rw [State.setKeys_keys, State.setKeys]

/-! ## Tick (R249) -/

/-- The floor of `countDown` is the floor of natural subtraction: a timer at 0 does not wrap to 255. -/
theorem toNat_countDown (b : Byte) : (countDown b).toNat = b.toNat - 1 := by
  by_cases hb : b = 0#8
  · rw [countDown, if_pos hb, hb, BitVec.toNat_zero]
  · have hle : 1#8 ≤ b := by bv_omega
    rw [countDown, if_neg hb, BitVec.toNat_sub_of_le hle, BitVec.toNat_ofNat]

theorem hostAct_tick (font : Font) (s : State) : hostAct font .tick s = (hostTick s, .done) := rfl

@[simp] theorem hostTick_dt (s : State) : (hostTick s).dt = countDown s.dt := rfl

@[simp] theorem hostTick_st (s : State) : (hostTick s).st = countDown s.st := rfl

theorem hostTick_eq (s : State) : hostTick s = { s with dt := countDown s.dt, st := countDown s.st } := rfl

/-- Settles O50: Tick replaces the two timers alone, and `toNat_countDown` gives the count of each. -/
theorem tickCountsBothTimersDown : Obligations.TickCountsBothTimersDown := by
  intro font s
  refine ⟨hostTick s, hostAct_tick font s, ?frame, ?delay, ?sound⟩
  case frame => rw [hostTick_dt, hostTick_st, hostTick_eq]
  case delay => rw [hostTick_dt, toNat_countDown]
  case sound => rw [hostTick_st, toNat_countDown]

/-! ## ReadDisplay and ReadTimers (R250, R251) -/

theorem hostAct_readDisplay (font : Font) (s : State) :
    hostAct font .readDisplay s = (s, .display s.fb) := rfl

theorem hostAct_readTimers (font : Font) (s : State) :
    hostAct font .readTimers s = (s, .timers s.dt s.st) := rfl

/-- Settles O51: each read hands back the state it was given. -/
theorem readsReturnAndChangeNothing : Obligations.ReadsReturnAndChangeNothing :=
  fun font s => ⟨hostAct_readDisplay font s, hostAct_readTimers font s⟩

end Sys2Proof.Machine
end

section
/-! The decoder and the encoder are inverse to each other, and both agree with the opcode table
(spec/30_encoding.md R94 to R99). -/

namespace Sys2Proof

/-! ## A word put together again from its fields (R91) -/

theorem packNnn_fields {w : Word} {op : BitVec 4} (h : (fieldOp w).toNat = op.toNat) :
    packNnn op (fieldNnn w) = w := by
  apply BitVec.eq_of_toNat_eq
  rw [toNat_fieldOp] at h
  rw [toNat_packNnn, toNat_fieldNnn]
  omega

theorem packXkk_fields {w : Word} {op : BitVec 4} (h : (fieldOp w).toNat = op.toNat) :
    packXkk op (fieldX w) (fieldKk w) = w := by
  apply BitVec.eq_of_toNat_eq
  rw [toNat_fieldOp] at h
  rw [toNat_packXkk, val_fieldX, toNat_fieldKk]
  omega

theorem packXyn_fields {w : Word} {op n : BitVec 4} (h : (fieldOp w).toNat = op.toNat)
    (hn : (fieldN w).val = n.toNat) : packXyn op (fieldX w) (fieldY w) n = w := by
  apply BitVec.eq_of_toNat_eq
  rw [toNat_fieldOp] at h
  rw [val_fieldN] at hn
  rw [toNat_packXyn, val_fieldX, val_fieldY]
  omega

/-- The form X: an XKK word whose low byte is fixed. -/
theorem packX_fields {w : Word} {op : BitVec 4} {kk : Byte} (h : (fieldOp w).toNat = op.toNat)
    (hk : (fieldKk w).toNat = kk.toNat) : packXkk op (fieldX w) kk = w := by
  rw [← BitVec.eq_of_toNat_eq hk]
  exact packXkk_fields h

/-! ## Decode after encode -/

@[simp] theorem fieldN_packXyn (op : BitVec 4) (x y : Reg) (n : BitVec 4) :
    fieldN (packXyn op x y n) = n.toFin := Fin.ext (val_fieldN_packXyn op x y n)

/-- Settles O1: the family of an encoded word is the one of its pattern, and each operand is read back from the
field it was packed into. -/
theorem decodeOfEncodeIsTheInstruction : Obligations.DecodeOfEncodeIsTheInstruction := by
  intro i
  cases i with
  | cls | ret => rfl
  | jp | call | ldI | jpV0 => simp [encode, decode]
  | seImm | sneImm | ldImm | addImm | rnd => simp [encode, decode]
  | skp | sknp => simp [encode, decode]
  | ldVxDt | ldVxK | ldDtVx | ldStVx | addI | ldF | ldB | dump | load => simp [encode, decode, decodeF]
  | seReg | sneReg => simp [encode, decode]
  | ldReg | orReg | andReg | xorReg | addReg | sub | shr | subn | shl => simp [encode, decode, decodeAlu]
  | drw => simp [encode, decode]

/-! ## Encode after decode -/

theorem encode_of_decodeAlu {w : Word} {i : Instr} (hop : (fieldOp w).toNat = 0x8) (h : decodeAlu w = .ok i) :
    encode i = w := by
  unfold decodeAlu at h
  split at h <;> cases h <;> exact packXyn_fields hop ‹_›

theorem encode_of_decodeF {w : Word} {i : Instr} (hop : (fieldOp w).toNat = 0xF) (h : decodeF w = .ok i) :
    encode i = w := by
  unfold decodeF at h
  split at h <;> cases h <;> exact packX_fields hop ‹_›

/-- Settles O2: in every family the word is its family, its operand fields and the fixed bits the decoder has
tested, put together. -/
theorem encodeOfDecodeIsTheWord : Obligations.EncodeOfDecodeIsTheWord := by
  intro w i h
  have hop := (fieldOp w).isLt
  unfold decode at h
  split at h
  case h_1 => -- family 0
    split at h
    · cases h; exact Eq.symm ‹_›
    · split at h <;> cases h
      exact Eq.symm ‹_›
  case h_9 => exact encode_of_decodeAlu ‹_› h
  case h_6 | h_10 => -- families 5 and 9
    split at h <;> cases h
    exact packXyn_fields ‹_› ‹_›
  case h_15 => -- family E
    split at h
    · cases h; exact packX_fields ‹_› ‹_›
    · split at h <;> cases h
      exact packX_fields ‹_› ‹_›
  case h_14 => -- family D
    cases h
    exact packXyn_fields ‹_› (by simp)
  case h_16 => -- family F
    have hF : (fieldOp w).toNat = 0xF := by
      simp only [imp_false] at *
      omega
    exact encode_of_decodeF hF h
  case h_2 | h_3 | h_11 | h_12 => -- the families of the form NNN
    cases h
    exact packNnn_fields ‹_›
  case h_4 | h_5 | h_7 | h_8 | h_13 => -- the families of the form XKK
    cases h
    exact packXkk_fields ‹_›

/-! ## The refusal -/

theorem decodeAlu_error {w : Word} {e : DecodeError} (h : decodeAlu w = .error e) : e = .invalidOpcode w := by
  unfold decodeAlu at h
  split at h <;> cases h
  rfl

theorem decodeF_error {w : Word} {e : DecodeError} (h : decodeF w = .error e) : e = .invalidOpcode w := by
  unfold decodeF at h
  split at h <;> cases h
  rfl

/-- A refused word is refused by name (R96). -/
theorem decode_error {w : Word} {e : DecodeError} (h : decode w = .error e) : e = .invalidOpcode w := by
  unfold decode at h
  split at h
  case h_9 => exact decodeAlu_error h
  case h_16 => exact decodeF_error h
  case h_6 | h_10 =>
    split at h <;> cases h
    rfl
  case h_1 | h_15 =>
    split at h
    · cases h
    · split at h <;> cases h
      rfl
  all_goals cases h

/-! ## The words a row of the table selects (R94) -/

section Selected

variable {w m p : Word}

theorem fieldOp_of_selected (hm : fieldOp m = BitVec.allOnes 4) (h : w &&& m = p) : fieldOp w = fieldOp p := by
  rw [← h, fieldOp_and, hm, BitVec.and_allOnes]

theorem fieldKk_of_selected (hm : fieldKk m = BitVec.allOnes 8) (h : w &&& m = p) : fieldKk w = fieldKk p := by
  rw [← h, fieldKk_and, hm, BitVec.and_allOnes]

theorem fieldN_of_selected (hm : (fieldN m).val = 2 ^ 4 - 1) (h : w &&& m = p) : fieldN w = fieldN p := by
  apply Fin.ext
  rw [← h, val_fieldN_and, hm, Nat.and_two_pow_sub_one_of_lt_two_pow (fieldN w).isLt]

variable {op : BitVec 4}

/-- A row with the mask F000 fixes the family and leaves the rest of the word to its operands. -/
theorem toNat_fieldOp_of_maskF000 (h : w &&& 0xF000#16 = packNnn op 0#12) : (fieldOp w).toNat = op.toNat := by
  rw [fieldOp_of_selected (by decide) h, fieldOp_packNnn]

/-- A row with the mask F0FF selects the words of the form X with its low byte. -/
theorem packX_of_maskF0FF {kk : Byte} (h : w &&& 0xF0FF#16 = packXkk op 0 kk) : packXkk op (fieldX w) kk = w := by
  apply packX_fields
  · rw [fieldOp_of_selected (by decide) h, fieldOp_packXkk]
  · rw [fieldKk_of_selected (by decide) h, fieldKk_packXkk]

/-- A row with the mask F00F selects the words of the form XY with its low four bits. -/
theorem packXy_of_maskF00F {n : BitVec 4} (h : w &&& 0xF00F#16 = packXyn op 0 0 n) :
    packXyn op (fieldX w) (fieldY w) n = w := by
  apply packXyn_fields
  · rw [fieldOp_of_selected (by decide) h, fieldOp_packXyn]
  · rw [fieldN_of_selected (by decide) h, fieldN_packXyn]
    rfl

end Selected

/-! ## The table and the decoder -/

/-- The row of an instruction, from the lemma of its constructor. -/
theorem tableRow_of_instr : ∀ i : Instr, Laws.TableRow.Statement i
  | .cls => Laws.TableRow.cls
  | .ret => Laws.TableRow.ret
  | .jp nnn => Laws.TableRow.jp nnn
  | .call nnn => Laws.TableRow.call nnn
  | .seImm x kk => Laws.TableRow.seImm x kk
  | .sneImm x kk => Laws.TableRow.sneImm x kk
  | .seReg x y => Laws.TableRow.seReg x y
  | .ldImm x kk => Laws.TableRow.ldImm x kk
  | .addImm x kk => Laws.TableRow.addImm x kk
  | .ldReg x y => Laws.TableRow.ldReg x y
  | .orReg x y => Laws.TableRow.orReg x y
  | .andReg x y => Laws.TableRow.andReg x y
  | .xorReg x y => Laws.TableRow.xorReg x y
  | .addReg x y => Laws.TableRow.addReg x y
  | .sub x y => Laws.TableRow.sub x y
  | .shr x y => Laws.TableRow.shr x y
  | .subn x y => Laws.TableRow.subn x y
  | .shl x y => Laws.TableRow.shl x y
  | .sneReg x y => Laws.TableRow.sneReg x y
  | .ldI nnn => Laws.TableRow.ldI nnn
  | .jpV0 nnn => Laws.TableRow.jpV0 nnn
  | .rnd x kk => Laws.TableRow.rnd x kk
  | .drw x y n => Laws.TableRow.drw x y n
  | .skp x => Laws.TableRow.skp x
  | .sknp x => Laws.TableRow.sknp x
  | .ldVxDt x => Laws.TableRow.ldVxDt x
  | .ldVxK x => Laws.TableRow.ldVxK x
  | .ldDtVx x => Laws.TableRow.ldDtVx x
  | .ldStVx x => Laws.TableRow.ldStVx x
  | .addI x => Laws.TableRow.addI x
  | .ldF x => Laws.TableRow.ldF x
  | .ldB x => Laws.TableRow.ldB x
  | .dump x => Laws.TableRow.dump x
  | .load x => Laws.TableRow.load x

/-! Family by family: a word that a row selects is the encoding of the row's instruction, with the operands in the
word's fields. -/

theorem exists_encode_of_rowLow {w : Word} {r : OpcodeRow} (hr : r ∈ opcodeRowsLow)
    (h : w &&& r.mask = r.pattern) : ∃ i, encode i = w := by
  simp only [opcodeRowsLow, List.mem_cons, List.not_mem_nil, or_false] at hr
  rcases hr with rfl | rfl | rfl | rfl | rfl | rfl | rfl | rfl | rfl
  · exact ⟨.cls, (h.symm.trans BitVec.and_allOnes)⟩
  · exact ⟨.ret, (h.symm.trans BitVec.and_allOnes)⟩
  · exact ⟨.jp _, packNnn_fields (toNat_fieldOp_of_maskF000 h)⟩
  · exact ⟨.call _, packNnn_fields (toNat_fieldOp_of_maskF000 h)⟩
  · exact ⟨.seImm _ _, packXkk_fields (toNat_fieldOp_of_maskF000 h)⟩
  · exact ⟨.sneImm _ _, packXkk_fields (toNat_fieldOp_of_maskF000 h)⟩
  · exact ⟨.seReg _ _, packXy_of_maskF00F h⟩
  · exact ⟨.ldImm _ _, packXkk_fields (toNat_fieldOp_of_maskF000 h)⟩
  · exact ⟨.addImm _ _, packXkk_fields (toNat_fieldOp_of_maskF000 h)⟩

theorem exists_encode_of_rowAlu {w : Word} {r : OpcodeRow} (hr : r ∈ opcodeRowsAlu)
    (h : w &&& r.mask = r.pattern) : ∃ i, encode i = w := by
  simp only [opcodeRowsAlu, List.mem_cons, List.not_mem_nil, or_false] at hr
  rcases hr with rfl | rfl | rfl | rfl | rfl | rfl | rfl | rfl | rfl
  · exact ⟨.ldReg _ _, packXy_of_maskF00F h⟩
  · exact ⟨.orReg _ _, packXy_of_maskF00F h⟩
  · exact ⟨.andReg _ _, packXy_of_maskF00F h⟩
  · exact ⟨.xorReg _ _, packXy_of_maskF00F h⟩
  · exact ⟨.addReg _ _, packXy_of_maskF00F h⟩
  · exact ⟨.sub _ _, packXy_of_maskF00F h⟩
  · exact ⟨.shr _ _, packXy_of_maskF00F h⟩
  · exact ⟨.subn _ _, packXy_of_maskF00F h⟩
  · exact ⟨.shl _ _, packXy_of_maskF00F h⟩

theorem exists_encode_of_rowHigh {w : Word} {r : OpcodeRow} (hr : r ∈ opcodeRowsHigh)
    (h : w &&& r.mask = r.pattern) : ∃ i, encode i = w := by
  simp only [opcodeRowsHigh, List.mem_cons, List.not_mem_nil, or_false] at hr
  rcases hr with rfl | rfl | rfl | rfl | rfl | rfl | rfl
  · exact ⟨.sneReg _ _, packXy_of_maskF00F h⟩
  · exact ⟨.ldI _, packNnn_fields (toNat_fieldOp_of_maskF000 h)⟩
  · exact ⟨.jpV0 _, packNnn_fields (toNat_fieldOp_of_maskF000 h)⟩
  · exact ⟨.rnd _ _, packXkk_fields (toNat_fieldOp_of_maskF000 h)⟩
  · exact ⟨.drw _ _ (fieldN w), packXyn_fields (toNat_fieldOp_of_maskF000 h) (by simp)⟩
  · exact ⟨.skp _, packX_of_maskF0FF h⟩
  · exact ⟨.sknp _, packX_of_maskF0FF h⟩

theorem exists_encode_of_rowF {w : Word} {r : OpcodeRow} (hr : r ∈ opcodeRowsF)
    (h : w &&& r.mask = r.pattern) : ∃ i, encode i = w := by
  simp only [opcodeRowsF, List.mem_cons, List.not_mem_nil, or_false] at hr
  rcases hr with rfl | rfl | rfl | rfl | rfl | rfl | rfl | rfl | rfl
  · exact ⟨.ldVxDt _, packX_of_maskF0FF h⟩
  · exact ⟨.ldVxK _, packX_of_maskF0FF h⟩
  · exact ⟨.ldDtVx _, packX_of_maskF0FF h⟩
  · exact ⟨.ldStVx _, packX_of_maskF0FF h⟩
  · exact ⟨.addI _, packX_of_maskF0FF h⟩
  · exact ⟨.ldF _, packX_of_maskF0FF h⟩
  · exact ⟨.ldB _, packX_of_maskF0FF h⟩
  · exact ⟨.dump _, packX_of_maskF0FF h⟩
  · exact ⟨.load _, packX_of_maskF0FF h⟩

theorem decode_of_selected {w : Word} {r : OpcodeRow} (hr : r ∈ opcodeTable) (h : w &&& r.mask = r.pattern) :
    ∃ i, decode w = .ok i := by
  have henc : ∃ i, encode i = w := by
    simp only [opcodeTable, List.mem_append] at hr
    rcases hr with ((hr | hr) | hr) | hr
    · exact exists_encode_of_rowLow hr h
    · exact exists_encode_of_rowAlu hr h
    · exact exists_encode_of_rowHigh hr h
    · exact exists_encode_of_rowF hr h
  obtain ⟨i, rfl⟩ := henc
  exact ⟨i, decodeOfEncodeIsTheInstruction i⟩

theorem exists_row_of_decode {w : Word} {i : Instr} (h : decode w = .ok i) :
    ∃ r ∈ opcodeTable, r.mnemonic = i.mnemonic ∧ w &&& r.mask = r.pattern := by
  obtain ⟨r, hr, hm, hs⟩ := tableRow_of_instr i
  rw [encodeOfDecodeIsTheWord w i h] at hs
  exact ⟨r, hr, hm, beq_iff_eq.1 hs⟩

/-- Two rows that select one word agree in every bit both masks fix. -/
theorem patterns_agree_of_selected {w : Word} {r q : OpcodeRow} (hr : w &&& r.mask = r.pattern)
    (hq : w &&& q.mask = q.pattern) : (r.pattern ^^^ q.pattern) &&& (r.mask &&& q.mask) = 0#16 := by
  rw [← hr, ← hq]
  apply BitVec.eq_of_getLsbD_eq
  intro j _
  have hbit : ∀ a b c : Bool, (((a && b) ^^ (a && c)) && (b && c)) = false := by decide
  simp only [BitVec.getLsbD_and, BitVec.getLsbD_xor, BitVec.getLsbD_zero, hbit]

theorem row_unique_of_selected {w : Word} {r q : OpcodeRow} (hr : r ∈ opcodeTable) (hq : q ∈ opcodeTable)
    (hwr : w &&& r.mask = r.pattern) (hwq : w &&& q.mask = q.pattern) : r = q := by
  by_contra hne
  have hsymm : Std.Symm fun r q : OpcodeRow => (r.pattern ^^^ q.pattern) &&& (r.mask &&& q.mask) ≠ 0#16 :=
    ⟨fun r q h => by rwa [BitVec.xor_comm, BitVec.and_comm q.mask]⟩
  exact opcodeTable_disjoint.forall hr hq hne (patterns_agree_of_selected hwr hwq)

/-- Settles O3: a decoded word is an encoding, which `TableRow` gives a row. A selected word is the encoding of an
instruction, so it decodes. Two rows that select one word would contradict `opcodeTable_disjoint`, and a refused
word is refused by name. -/
theorem decodeAcceptsExactlyTheTableWords : Obligations.DecodeAcceptsExactlyTheTableWords := by
  refine ⟨fun w i => exists_row_of_decode, fun w r => decode_of_selected,
    fun w r hr q hq => row_unique_of_selected hr hq, fun w hnone => ?refused⟩
  case refused =>
    cases hd : decode w with
    | ok i =>
      obtain ⟨r, hr, _, hs⟩ := exists_row_of_decode hd
      exact absurd hs (hnone r hr)
    | error e => rw [decode_error hd]

/-! ## Sample words -/

/-- Settles O4: the decoder is evaluated on each word of the test vectors. -/
theorem sampleWordsDecodeAsTheTableSays : Obligations.SampleWordsDecodeAsTheTableSays := by
  unfold Obligations.SampleWordsDecodeAsTheTableSays
  and_intros <;> rfl

end Sys2Proof
end

section
/-! What an instruction does, once for all of them: the condition it raises, if any, and the state it leaves when
it raises none (spec/60_exceptions.md R230, R238). -/

namespace Sys2Proof.Machine

/-! ## The condition an instruction raises (spec/60_exceptions.md R231) -/

/-- A fatal condition with its address. -/
structure Fatal where
  kind : FatalKind
  addr : Option Nat

/-- The condition of a range check of `k` bytes from I (R63). -/
def State.rangeFatal (s : State) (k : Nat) : Option Fatal :=
  if rangeFits s.index.toNat k then none else some ⟨.addressOutOfRange, some (firstOutside s.index.toNat)⟩

/-- The condition of a key skip on V[x] (R210, R211). -/
def State.slotFatal (s : State) (x : Reg) : Option Fatal :=
  if (s.reg x).toNat < 16 then none else some ⟨.addressOutOfRange, some (s.reg x).toNat⟩

/-- The condition `i` raises in `s`. -/
def raises (i : Instr) (s : State) : Option Fatal :=
  match i with
  | .ret => if s.stack = [] then some ⟨.stackUnderflow, none⟩ else none
  | .call _ => if stackDepth ≤ s.stack.length then some ⟨.stackOverflow, none⟩ else none
  | .addI x =>
    if s.index.toNat + (s.reg x).toNat > 0xFFFF then
      some ⟨.addressOutOfRange, some (s.index.toNat + (s.reg x).toNat)⟩
    else none
  | .drw _ _ n => s.rangeFatal n.val
  | .ldB _ => s.rangeFatal 3
  | .dump x | .load x => s.rangeFatal (x.val + 1)
  | .skp x | .sknp x => s.slotFatal x
  | _ => none

/-! ## The state an instruction leaves when it raises nothing -/

/-- Whether the slot V[x] names is down; a value above 15 names the slot of its low four bits here, where `raises`
has already refused it. -/
def State.slotDown (s : State) (x : Reg) : Bool := s.keyDown (Fin.ofNat 16 (s.reg x).toNat)

/-- The key wait (R213). -/
def State.keyWait (s : State) (x : Reg) : State :=
  match keyPick s.keys with
  | none => s.setPc (s.pc - 2#16)
  | some k => s.setReg x (BitVec.ofNat 8 k.val)

/-- The pc after a skip on the condition `c` (R128). -/
def State.pcAfterSkip (s : State) (c : Bool) : Word := if c then s.pc + 2#16 else s.pc

theorem State.keyWait_frame (s : State) (x : Reg) :
    s.keyWait x = (s.setRegs (s.keyWait x).v).setPc (s.keyWait x).pc := by
  unfold State.keyWait
  cases keyPick s.keys <;> rfl

/-- What `i` leaves of `s` when it raises nothing. -/
def effect (i : Instr) (s : State) : State :=
  match i with
  | .cls => s.setFb clearScreen
  | .ret => (s.setStack s.stack.tail).setPc (s.stack.headD 0#16)
  | .jp nnn => s.setPc (extendNnn nnn)
  | .call nnn => (s.setStack (s.pc :: s.stack)).setPc (extendNnn nnn)
  | .seImm x kk => s.setPc (s.pcAfterSkip (s.reg x == kk))
  | .sneImm x kk => s.setPc (s.pcAfterSkip (s.reg x != kk))
  | .seReg x y => s.setPc (s.pcAfterSkip (s.reg x == s.reg y))
  | .sneReg x y => s.setPc (s.pcAfterSkip (s.reg x != s.reg y))
  | .ldImm x kk => s.setReg x kk
  | .addImm x kk => s.setReg x (s.reg x + kk)
  | .ldReg x y => s.setReg x (s.reg y)
  | .orReg x y => s.setReg x (s.reg x ||| s.reg y)
  | .andReg x y => s.setReg x (s.reg x &&& s.reg y)
  | .xorReg x y => s.setReg x (s.reg x ^^^ s.reg y)
  | .addReg x y => s.setResultThenFlag x (s.reg x + s.reg y) (carryFlag (s.reg x) (s.reg y))
  | .sub x y => s.setResultThenFlag x (s.reg x - s.reg y) (noBorrowFlag (s.reg x) (s.reg y))
  | .shr x _ => s.setResultThenFlag x (s.reg x >>> 1) (shiftedOutLow (s.reg x))
  | .subn x y => s.setResultThenFlag x (s.reg y - s.reg x) (noBorrowFlag (s.reg y) (s.reg x))
  | .shl x _ => s.setResultThenFlag x (s.reg x <<< 1) (shiftedOutHigh (s.reg x))
  | .ldI nnn => s.setIndex (extendNnn nnn)
  | .jpV0 nnn => s.setPc (BitVec.ofNat 16 ((s.reg 0).toNat + nnn.toNat))
  | .rnd x kk => (s.setReg x (s.randomByte &&& kk)).setDraws (s.draws + 1)
  | .drw x y n => (s.setFb (s.draw x y n.val).1).setReg vf (flagByte (s.draw x y n.val).2)
  | .skp x => s.setPc (s.pcAfterSkip (s.slotDown x == true))
  | .sknp x => s.setPc (s.pcAfterSkip (s.slotDown x == false))
  | .ldVxDt x => s.setReg x s.dt
  | .ldVxK x => (s.setRegs (s.keyWait x).v).setPc (s.keyWait x).pc
  | .ldDtVx x => s.setDt (s.reg x)
  | .ldStVx x => s.setSt (s.reg x)
  | .addI x => s.setIndex (BitVec.ofNat 16 (s.index.toNat + (s.reg x).toNat))
  | .ldF x => s.setIndex (BitVec.ofNat 16 (5 * (s.reg x).toNat))
  | .ldB x => s.setMem (s.mem.writeBytes s.index.toNat (bcdDigits (s.reg x)))
  | .dump x => s.setMem (s.mem.writeBytes s.index.toNat (s.regsUpTo x))
  | .load x => s.setRegs (loadRegs s.v 0 (s.mem.readBytes s.index.toNat (x.val + 1)))

/-! ## `exec` is the two together -/

/-- The condition `f` raised, or `t` where there is none. -/
def State.raiseOr (s : State) (f : Option Fatal) (t : State) : Answer State :=
  match f with
  | some f => s.raise f.kind f.addr
  | none => .next t

theorem State.raiseOr_ite (s t : State) (c : Prop) [Decidable c] (f : Fatal) :
    s.raiseOr (if c then some f else none) t = if c then s.raise f.kind f.addr else .next t := by
  split <;> rfl

theorem State.checkRange_eq (s : State) (k : Nat) (act : State → State) :
    s.checkRange k act = s.raiseOr (s.rangeFatal k) (act s) := by
  cases h : rangeFits s.index.toNat k with
  | true => rw [State.checkRange_fits h, State.rangeFatal, if_pos h, State.raiseOr]
  | false => rw [State.checkRange_outside h, State.rangeFatal, if_neg (by simp [h]), State.raiseOr]

theorem State.skipOnKey_eq (s : State) (x : Reg) (wanted : Bool) :
    s.skipOnKey x wanted = s.raiseOr (s.slotFatal x) (s.setPc (s.pcAfterSkip (s.slotDown x == wanted))) := by
  by_cases h : (s.reg x).toNat < 16
  · have hk : (⟨(s.reg x).toNat, h⟩ : Key) = Fin.ofNat 16 (s.reg x).toNat := Fin.ext (Nat.mod_eq_of_lt h).symm
    rw [State.skipOnKey_key h, State.slotFatal, if_pos h, State.raiseOr, hk, State.skipIf_eq, State.pcAfterSkip,
      State.slotDown]
  · rw [State.skipOnKey_noKey h, State.slotFatal, if_neg h, State.raiseOr]

theorem execLdVxK_eq (x : Reg) (s : State) : execLdVxK x s = .next (s.keyWait x) := by
  rw [execLdVxK, State.keyWait]
  cases keyPick s.keys <;> rfl

/-- Every instruction raises its condition, or answers its effect where it has none. -/
theorem exec_eq (i : Instr) (s : State) : exec i s = s.raiseOr (raises i s) (effect i s) := by
  cases i with
  | ret =>
    rw [exec, execRet, raises, effect, State.raiseOr_ite]
    cases s.stack <;> rfl
  | call nnn => rw [exec, execCall, raises, effect, State.raiseOr_ite]
  | addI x => rw [exec, execAddI, raises, effect, State.raiseOr_ite]
  | drw x y n => exact s.checkRange_eq n.val (effect (.drw x y n))
  | ldB x => exact s.checkRange_eq 3 (effect (.ldB x))
  | dump x => exact s.checkRange_eq (x.val + 1) (effect (.dump x))
  | load x => exact s.checkRange_eq (x.val + 1) (effect (.load x))
  | skp x => exact s.skipOnKey_eq x true
  | sknp x => exact s.skipOnKey_eq x false
  | seImm x kk => exact congrArg _ (s.skipIf_eq (s.reg x == kk))
  | sneImm x kk => exact congrArg _ (s.skipIf_eq (s.reg x != kk))
  | seReg x y => exact congrArg _ (s.skipIf_eq (s.reg x == s.reg y))
  | sneReg x y => exact congrArg _ (s.skipIf_eq (s.reg x != s.reg y))
  | ldVxK x => exact (execLdVxK_eq x s).trans (congrArg _ (s.keyWait_frame x))
  | _ => rfl

theorem exec_of_raises {i : Instr} {s : State} {f : Fatal} (h : raises i s = some f) :
    exec i s = .next (s.takeFatal f.kind f.addr) := by
  rw [exec_eq, h, State.raiseOr, State.raise]

theorem exec_of_not_raises {i : Instr} {s : State} (h : raises i s = none) : exec i s = .next (effect i s) := by
  rw [exec_eq, h, State.raiseOr]

/-- The two things an instruction can do. -/
theorem exec_cases {i : Instr} {s t : State} (h : exec i s = .next t) :
    (∃ f, raises i s = some f ∧ t = s.takeFatal f.kind f.addr) ∨ (raises i s = none ∧ t = effect i s) := by
  cases hr : raises i s with
  | some f =>
    rw [exec_of_raises hr] at h
    cases h
    exact .inl ⟨f, rfl, rfl⟩
  | none =>
    rw [exec_of_not_raises hr] at h
    cases h
    exact .inr ⟨rfl, rfl⟩

end Sys2Proof.Machine
end

section
/-! What each instruction leaves unchanged, and when it halts (spec/10_state.md R22, R26, R45;
spec/60_exceptions.md R231, R238). -/

namespace Sys2Proof.Machine

/-! ## The conditions -/

theorem State.takeFatal_eq_haltedBy (s : State) (kind : FatalKind) (addr : Option Nat) :
    s.takeFatal kind addr = s.HaltedBy kind addr := rfl

/-- A failed range check reports an address of the 16-bit I, or the end of the memory. -/
theorem State.rangeFatal_eq_some {s : State} {k : Nat} {f : Fatal} (h : s.rangeFatal k = some f) :
    ∃ a ≤ 0x100FE, f = ⟨.addressOutOfRange, some a⟩ := by
  have hI := s.index.isLt
  obtain ⟨_, h⟩ := Option.ite_none_left_eq_some.1 h
  cases h
  exact ⟨_, by simp only [firstOutside, memSize]; omega, rfl⟩

theorem State.slotFatal_eq_some {s : State} {x : Reg} {f : Fatal} (h : s.slotFatal x = some f) :
    ∃ a ≤ 0x100FE, f = ⟨.addressOutOfRange, some a⟩ := by
  have hx := (s.reg x).isLt
  obtain ⟨_, h⟩ := Option.ite_none_left_eq_some.1 h
  cases h
  exact ⟨_, by omega, rfl⟩

/-- The table of R231: which instruction raises which condition. -/
theorem raises_cases {i : Instr} {s : State} {f : Fatal} (h : raises i s = some f) :
    (i = .ret ∧ s.stack = [] ∧ f = ⟨.stackUnderflow, none⟩) ∨
    ((∃ nnn, i = .call nnn) ∧ 16 ≤ s.stack.length ∧ f = ⟨.stackOverflow, none⟩) ∨
    (checksIndex i = true ∧ ∃ a ≤ 0x100FE, f = ⟨.addressOutOfRange, some a⟩) := by
  cases i with
  | ret =>
    obtain ⟨hs, h⟩ := Option.ite_none_right_eq_some.1 h
    cases h
    exact .inl ⟨rfl, hs, rfl⟩
  | call nnn =>
    obtain ⟨hs, h⟩ := Option.ite_none_right_eq_some.1 h
    cases h
    exact .inr (.inl ⟨⟨nnn, rfl⟩, hs, rfl⟩)
  | addI x =>
    have hI := s.index.isLt
    have hx := (s.reg x).isLt
    obtain ⟨_, h⟩ := Option.ite_none_right_eq_some.1 h
    cases h
    exact .inr (.inr ⟨rfl, _, by omega, rfl⟩)
  | drw | ldB | dump | load => exact .inr (.inr ⟨rfl, State.rangeFatal_eq_some h⟩)
  | skp | sknp => exact .inr (.inr ⟨rfl, State.slotFatal_eq_some h⟩)
  | _ => cases h

/-! ## The frame of the effect -/

section Frame

variable (i : Instr) (s : State)

@[simp] theorem effect_keys : (effect i s).keys = s.keys := by cases i <;> rfl

@[simp] theorem effect_cur : (effect i s).cur = s.cur := by cases i <;> rfl

@[simp] theorem effect_halt : (effect i s).halt = s.halt := by cases i <;> rfl

end Frame

/-! The instructions that write each of the other pieces of state (the column "written by" of R45). -/

section Writers

variable {i : Instr} {s : State}

theorem pc_writer (h : (effect i s).pc ≠ s.pc) : writesPc i = true := by
  cases i with
  | ret | jp | call | seImm | sneImm | seReg | sneReg | jpV0 | skp | sknp | ldVxK => rfl
  | _ => exact absurd rfl h

theorem dt_writer (h : (effect i s).dt ≠ s.dt) : ∃ x, i = .ldDtVx x := by
  cases i with
  | ldDtVx x => exact ⟨x, rfl⟩
  | _ => exact absurd rfl h

theorem st_writer (h : (effect i s).st ≠ s.st) : ∃ x, i = .ldStVx x := by
  cases i with
  | ldStVx x => exact ⟨x, rfl⟩
  | _ => exact absurd rfl h

theorem index_writer (h : (effect i s).index ≠ s.index) : (∃ nnn, i = .ldI nnn) ∨ (∃ x, i = .addI x) ∨ ∃ x, i = .ldF x := by
  cases i with
  | ldI nnn => exact .inl ⟨nnn, rfl⟩
  | addI x => exact .inr (.inl ⟨x, rfl⟩)
  | ldF x => exact .inr (.inr ⟨x, rfl⟩)
  | _ => exact absurd rfl h

theorem stack_writer (h : (effect i s).stack ≠ s.stack) : i = .ret ∨ ∃ nnn, i = .call nnn := by
  cases i with
  | ret => exact .inl rfl
  | call nnn => exact .inr ⟨nnn, rfl⟩
  | _ => exact absurd rfl h

theorem mem_writer (h : (effect i s).mem ≠ s.mem) : (∃ x, i = .ldB x) ∨ ∃ x, i = .dump x := by
  cases i with
  | ldB x => exact .inl ⟨x, rfl⟩
  | dump x => exact .inr ⟨x, rfl⟩
  | _ => exact absurd rfl h

theorem fb_writer (h : (effect i s).fb ≠ s.fb) : i = .cls ∨ ∃ x y n, i = .drw x y n := by
  cases i with
  | cls => exact .inl rfl
  | drw x y n => exact .inr ⟨x, y, n, rfl⟩
  | _ => exact absurd rfl h

theorem draws_writer (h : (effect i s).draws ≠ s.draws) : ∃ x kk, i = .rnd x kk := by
  cases i with
  | rnd x kk => exact ⟨x, kk, rfl⟩
  | _ => exact absurd rfl h

theorem halt_writer {f : Fatal} (h : raises i s = some f) :
    i = .ret ∨ (∃ nnn, i = .call nnn) ∨ checksIndex i = true := by
  rcases raises_cases h with ⟨hi, _⟩ | ⟨hi, _⟩ | ⟨hi, _⟩
  · exact .inl hi
  · exact .inr (.inl hi)
  · exact .inr (.inr hi)

end Writers

/-- Settles O45: a raised condition changes the halt state alone, and `raises_cases` says whose it is. The effect
of an instruction changes a field only where the instruction is one of its writers. -/
theorem eachRegisterHasItsWriters : Obligations.EachRegisterHasItsWriters := by
  intro i s t h
  rcases exec_cases h with ⟨f, hf, rfl⟩ | ⟨_, rfl⟩
  · exact ⟨rfl, rfl, absurd rfl, fun _ => halt_writer hf, absurd rfl, absurd rfl, absurd rfl, absurd rfl, absurd rfl,
      absurd rfl, absurd rfl⟩
  · exact ⟨effect_keys i s, effect_cur i s, pc_writer, absurd (effect_halt i s), dt_writer, st_writer, index_writer,
      stack_writer, mem_writer, fb_writer, draws_writer⟩

/-- Settles O18: the pc clause of the writers. -/
theorem otherInstructionsLeaveThePc : Obligations.OtherInstructionsLeaveThePc := by
  intro i s t hi h
  obtain ⟨_, _, hpc, _⟩ := eachRegisterHasItsWriters i s t h
  by_contra hne
  exact Bool.false_ne_true (hi.symm.trans (hpc hne))

/-- Settles O10: a step is the same state, a halted one, or what an instruction answers, and `exec_eq` leaves an
instruction no other answer than a next state. -/
theorem everyStepHasANextState : Obligations.EveryStepHasANextState := by
  intro s
  rcases step_cases s with ⟨_, _, h⟩ | ⟨_, _, h⟩ | ⟨_, _, _, h⟩ | ⟨_, _, i, _, h⟩
  · exact ⟨_, h⟩
  · exact ⟨_, h⟩
  · exact ⟨_, h⟩
  · cases hr : raises i s.fetched with
    | some f => exact ⟨_, h.trans (exec_of_raises hr)⟩
    | none => exact ⟨_, h.trans (exec_of_not_raises hr)⟩

/-- Settles O11: an effect keeps the Machine running, so the state is the halted one of a raised condition, and
`raises_cases` lists those. -/
theorem fatalConditionsArePrecise : Obligations.FatalConditionsArePrecise := by
  intro i s t hrun h hhalt
  rcases exec_cases h with ⟨f, hf, rfl⟩ | ⟨_, rfl⟩
  · rcases raises_cases hf with ⟨hi, hs, rfl⟩ | ⟨hi, hs, rfl⟩ | ⟨hi, a, ha, rfl⟩
    · exact .inl ⟨hi, hs, rfl⟩
    · exact .inr (.inl ⟨hi, hs, rfl⟩)
    · exact .inr (.inr ⟨hi, a, ha, rfl⟩)
  · exact absurd ((effect_halt i s).trans hrun) hhalt

/-! ## The general registers (R22) -/

theorem State.reg_setRegs (s : State) (v : Vector Byte 16) (z : Reg) : (s.setRegs v).reg z = v.get z := rfl

theorem State.reg_keyWait {s : State} {x z : Reg} (h : z ≠ x) : (s.keyWait x).reg z = s.reg z := by
  rw [State.keyWait]
  cases keyPick s.keys with
  | none => rfl
  | some k => rw [State.reg_setReg, if_neg h]

theorem reg_loadRegs_above {s : State} {x z : Reg} (h : ¬ z ≤ x) :
    (s.setRegs (loadRegs s.v 0 (s.mem.readBytes s.index.toNat (x.val + 1)))).reg z = s.reg z := by
  have hx := x.isLt
  have hz : x.val < z.val := Nat.lt_of_not_le h
  rw [State.reg_setRegs, get_loadRegs _ _ _ (by rw [Memory.length_readBytes]; omega),
    if_neg (by rw [Memory.length_readBytes]; omega)]
  rfl

theorem reg_effect {i : Instr} {s : State} {z : Reg} (h : writesReg i z = false) : (effect i s).reg z = s.reg z := by
  cases i with
  | ldImm | addImm | ldReg | orReg | andReg | xorReg | rnd | ldVxDt =>
    simp only [writesReg, beq_eq_false_iff_ne] at h
    simp [effect, h]
  | addReg | sub | shr | subn | shl =>
    simp only [writesReg, Bool.or_eq_false_iff, beq_eq_false_iff_ne] at h
    simp [effect, State.reg_setResultThenFlag, h]
  | drw =>
    simp only [writesReg, beq_eq_false_iff_ne] at h
    simp [effect, h]
  | ldVxK => exact State.reg_keyWait (beq_eq_false_iff_ne.1 h)
  | load => exact reg_loadRegs_above (of_decide_eq_false h)
  | _ => rfl

/-- Settles O26: a raised condition keeps every register, and `reg_effect` treats the rest. -/
theorem instructionsWriteOnlyTheirRegisters : Obligations.InstructionsWriteOnlyTheirRegisters := by
  intro i s t z h hz
  rcases exec_cases h with ⟨f, _, rfl⟩ | ⟨_, rfl⟩
  · rfl
  · exact reg_effect hz

/-! ## What an instruction does not read -/

section Unread

variable {i : Instr} (s : State)

theorem raises_setSt (b : Byte) : raises i (s.setSt b) = raises i s := by cases i <;> rfl

theorem raises_setKeys (keys : Keypad) : raises i (s.setKeys keys) = raises i s := by cases i <;> rfl

theorem State.keyWait_setSt (x : Reg) (b : Byte) : (s.setSt b).keyWait x = (s.keyWait x).setSt b := by
  simp only [State.keyWait, State.setSt_keys]
  cases keyPick s.keys <;> rfl

/-- ST is read by no instruction. -/
theorem effect_setSt (h : ∀ x, i ≠ .ldStVx x) (b : Byte) : effect i (s.setSt b) = (effect i s).setSt b := by
  cases i with
  | ldStVx x => exact absurd rfl (h x)
  | ldVxK x => simp only [effect, State.keyWait_setSt]; rfl
  | _ => rfl

/-- The keypad is read by the two key skips and the key wait alone. -/
theorem effect_setKeys (h : ∀ x, i ≠ .skp x ∧ i ≠ .sknp x ∧ i ≠ .ldVxK x) (keys : Keypad) :
    effect i (s.setKeys keys) = (effect i s).setKeys keys := by
  cases i with
  | skp x => exact absurd rfl (h x).1
  | sknp x => exact absurd rfl (h x).2.1
  | ldVxK x => exact absurd rfl (h x).2.2
  | _ => rfl

end Unread

/-- Settles O43: neither the condition an instruction raises nor, the three apart, its effect reads the slots. -/
theorem otherInstructionsIgnoreTheKeypad : Obligations.OtherInstructionsIgnoreTheKeypad := by
  intro i s t keys hi h
  change exec i (s.setKeys keys) = .next (t.setKeys keys)
  rcases exec_cases h with ⟨f, hf, rfl⟩ | ⟨hn, rfl⟩
  · rw [exec_of_raises ((raises_setKeys s keys).trans hf)]
    rfl
  · rw [exec_of_not_raises ((raises_setKeys s keys).trans hn), effect_setKeys s hi]

/-- An instruction other than LD ST, Vx leaves ST and does the same under any other. -/
theorem exec_setSt {i : Instr} {s t : State} (hi : ∀ x, i ≠ .ldStVx x) (h : exec i s = .next t) (b : Byte) :
    t.st = s.st ∧ exec i (s.setSt b) = .next (t.setSt b) := by
  rcases exec_cases h with ⟨f, hf, rfl⟩ | ⟨hn, rfl⟩
  · exact ⟨rfl, exec_of_raises ((raises_setSt s b).trans hf)⟩
  · refine ⟨?same, ?carried⟩
    case same =>
      by_contra hne
      obtain ⟨x, hx⟩ := st_writer hne
      exact hi x hx
    case carried => rw [exec_of_not_raises ((raises_setSt s b).trans hn), effect_setSt s hi]

/-- A step that runs LD ST, Vx overwrites ST, whatever it was. -/
theorem step_setSt_of_runs {s t : State} {x : Reg} (h : step s = .next t) (hr : s.Runs (.ldStVx x)) (b : Byte) :
    t.st = s.reg x ∧ step (s.setSt b) = .next t := by
  obtain ⟨hrun, hpc, hd⟩ := hr
  have hf : s.canFetch = true := s.canFetch_iff.2 (by omega)
  have hstep : step s = .next (s.fetched.setSt (s.reg x)) := step_of_decoded hrun hf hd
  rw [hstep] at h
  cases h
  exact ⟨rfl, step_of_decoded (s := s.setSt b) hrun hf hd⟩

/-- Settles O44: LD ST,Vx overwrites ST; a step that runs another instruction is `exec_setSt`, and one that runs
none (the Machine halted, the fetch fatal, the word invalid) sees ST nowhere. -/
theorem noStepReadsTheSoundTimer : Obligations.NoStepReadsTheSoundTimer := by
  intro s t b h
  refine ⟨fun x hr => step_setSt_of_runs h hr b, fun hn => ?other⟩
  change t.st = s.st ∧ step (s.setSt b) = .next (t.setSt b)
  rcases step_cases s with ⟨r, hh, he⟩ | ⟨hrun, hf, he⟩ | ⟨hrun, hf, ⟨e, hd⟩, he⟩ | ⟨hrun, hf, i, hd, he⟩
  · cases he.symm.trans h
    exact ⟨rfl, step_of_halted (s := s.setSt b) hh⟩
  · cases he.symm.trans h
    exact ⟨rfl, step_of_fetchFatal (s := s.setSt b) hrun hf⟩
  · cases he.symm.trans h
    exact ⟨rfl, step_of_invalid (s := s.setSt b) hrun hf hd⟩
  · have hi : ∀ x, i ≠ .ldStVx x := by
      rintro x rfl
      have hpc := s.canFetch_iff.1 hf
      exact hn x ⟨hrun, by omega, hd⟩
    rw [step_of_decoded (s := s.setSt b) hrun hf hd]
    exact exec_setSt hi (he.symm.trans h) b

end Sys2Proof.Machine
end

section
/-! The instructions that store to and load from the memory, what a fetch reads after a store, and the canonical
form of the memory (spec/42_index_memory.md R173 to R176; spec/20_memory.md R60, R63, section 8). -/

namespace Sys2Proof.Machine

/-! ## The range check (R63) -/

theorem State.rangeFatal_of_fits {s : State} {k : Nat} (h : k = 0 ∨ s.index.toNat + k ≤ memSize) :
    s.rangeFatal k = none := by
  rw [State.rangeFatal, if_pos ((rangeFits_iff _ _).2 h)]

theorem State.rangeFatal_of_outside {s : State} {k : Nat} (hk : k ≠ 0) (h : memSize < s.index.toNat + k) :
    s.rangeFatal k = some ⟨.addressOutOfRange, some (max s.index.toNat 0x1000)⟩ := by
  have hf : ¬ rangeFits s.index.toNat k = true := by
    rw [rangeFits_iff]
    omega
  exact if_neg hf

/-- An instruction whose range check fails answers the state halted by it. -/
theorem exec_of_outside {i : Instr} {s : State} {k : Nat} (hi : raises i s = s.rangeFatal k) (hk : k ≠ 0)
    (h : memSize < s.index.toNat + k) :
    exec i s = .next (s.HaltedBy .addressOutOfRange (some (max s.index.toNat 0x1000))) :=
  exec_of_raises (hi.trans (State.rangeFatal_of_outside hk h))

section Fits

variable {s : State} {x : Reg}

theorem exec_ldB (h : s.index.toNat + 2 ≤ 0xFFF) : exec (.ldB x) s = .next (effect (.ldB x) s) :=
  exec_of_not_raises (State.rangeFatal_of_fits (.inr (by simp only [memSize]; omega)))

theorem exec_dump (h : s.index.toNat + x.val ≤ 0xFFF) : exec (.dump x) s = .next (effect (.dump x) s) :=
  exec_of_not_raises (State.rangeFatal_of_fits (.inr (by simp only [memSize]; omega)))

theorem exec_load (h : s.index.toNat + x.val ≤ 0xFFF) : exec (.load x) s = .next (effect (.load x) s) :=
  exec_of_not_raises (State.rangeFatal_of_fits (.inr (by simp only [memSize]; omega)))

end Fits

/-! ## LD [I], Vx -/

theorem read_effect_dump (s : State) (x : Reg) (a : Nat) :
    (effect (.dump x) s).mem.read a = s.byteAfterDump x a := by
  have hx := x.isLt
  rw [effect, State.setMem_mem, Memory.read_writeBytes, State.length_regsUpTo, State.byteAfterDump]
  by_cases h : s.index.toNat ≤ a ∧ a ≤ s.index.toNat + x.val
  · have hz : (Fin.ofNat 16 (a - s.index.toNat)).val = a - s.index.toNat := Nat.mod_eq_of_lt (by omega)
    have hle : Fin.ofNat 16 (a - s.index.toNat) ≤ x := by
      rw [Fin.le_def, hz]
      omega
    rw [if_pos (by omega), if_pos h, ← s.getD_regsUpTo x _ hle 0#8, hz]
  · rw [if_neg (by omega), if_neg h]

theorem State.byteAfterDump_covered (s : State) {x z : Reg} (h : z ≤ x) :
    s.byteAfterDump x (s.effectiveAddr z.val) = s.reg z := by
  have hz : z.val ≤ x.val := h
  rw [State.byteAfterDump, State.effectiveAddr, if_pos (by omega), Nat.add_sub_cancel_left, Fin.ofNat_eq_cast,
    Fin.cast_val_eq_self]

theorem State.byteAfterDump_other (s : State) {x : Reg} {a : Nat} (h : ∀ z : Reg, z ≤ x → a ≠ s.effectiveAddr z.val) :
    s.byteAfterDump x a = s.mem.read a := by
  have hx := x.isLt
  rw [State.byteAfterDump, if_neg]
  rintro ⟨hlo, hhi⟩
  exact h ⟨a - s.index.toNat, by omega⟩ (Fin.le_def.2 (by simp only; omega)) (by simp only [State.effectiveAddr]; omega)

/-- Settles O30: with the range inside the memory the effect is the store, whose reads `read_effect_dump` gives. -/
theorem dumpStoresV0ToVx : Obligations.DumpStoresV0ToVx := by
  intro s x
  refine ⟨fun h => ⟨_, exec_dump h, rfl, fun z hz => ?covered, fun a ha => ?other⟩,
    fun h => exec_of_outside rfl (Nat.succ_ne_zero _) (by simp only [memSize]; omega)⟩
  case covered => rw [read_effect_dump, s.byteAfterDump_covered hz]
  case other => rw [read_effect_dump, s.byteAfterDump_other ha]

/-! ## LD B, Vx -/

theorem read_effect_ldB (s : State) (x : Reg) (a : Nat) :
    (effect (.ldB x) s).mem.read a = s.byteAfterBcd x a := by
  simp only [effect, State.setMem_mem, bcdDigits, Memory.writeBytes, Memory.read_write, State.byteAfterBcd]
  by_cases h0 : a = s.index.toNat
  · rw [if_neg (by omega), if_neg (by omega), if_pos h0, if_pos h0]
  · by_cases h1 : a = s.index.toNat + 1
    · simp [h1]
    · simp [h0, h1]

theorem toNat_ofNat_digit {b : Byte} {n : Nat} (h : n ≤ b.toNat) : (BitVec.ofNat 8 n).toNat = n := by
  have hb := b.isLt
  rw [BitVec.toNat_ofNat]
  omega

/-- Settles O29: with the range inside the memory the effect is the store, whose reads `read_effect_ldB` gives. -/
theorem bcdStoresThreeDigits : Obligations.BcdStoresThreeDigits := by
  intro s x
  refine ⟨fun h => ⟨_, exec_ldB h, rfl, ?hundreds, ?tens, ?ones, fun a ha => ?other⟩,
    fun h => exec_of_outside rfl (Nat.succ_ne_zero 2) (by simp only [memSize]; omega)⟩
  case hundreds =>
    rw [read_effect_ldB, State.byteAfterBcd, if_pos s.effectiveAddr_zero, toNat_ofNat_digit (b := s.reg x) (by omega)]
  case tens =>
    rw [read_effect_ldB, State.byteAfterBcd, State.effectiveAddr, if_neg (by omega), if_pos rfl,
      toNat_ofNat_digit (b := s.reg x) (by omega)]
  case ones =>
    rw [read_effect_ldB, State.byteAfterBcd, State.effectiveAddr, if_neg (by omega), if_neg (by omega), if_pos rfl,
      toNat_ofNat_digit (b := s.reg x) (by omega)]
  case other =>
    have h0 : a ≠ s.index.toNat := ha 0 (by decide)
    have h1 : a ≠ s.index.toNat + 1 := ha 1 (by decide)
    have h2 : a ≠ s.index.toNat + 2 := ha 2 (by decide)
    rw [read_effect_ldB, State.byteAfterBcd, if_neg h0, if_neg h1, if_neg h2]

/-! ## LD Vx, [I] -/

theorem reg_effect_load (s : State) (x z : Reg) :
    (effect (.load x) s).reg z = if z ≤ x then s.mem.read (s.effectiveAddr z.val) else s.reg z := by
  have hx := x.isLt
  rw [effect, State.reg_setRegs, get_loadRegs _ _ _ (by rw [Memory.length_readBytes]; omega),
    Memory.length_readBytes]
  by_cases h : z ≤ x
  · have hz : z.val ≤ x.val := h
    rw [if_pos (by omega), if_pos h, Memory.getD_readBytes _ _ _ _ (by omega), Nat.sub_zero, State.effectiveAddr]
  · have hz : x.val < z.val := Nat.lt_of_not_le h
    rw [if_neg (by omega), if_neg h, State.reg]

/-- Settles O31: with the range inside the memory the effect is the load, whose registers `reg_effect_load` gives. -/
theorem loadFillsV0ToVx : Obligations.LoadFillsV0ToVx := by
  intro s x
  exact ⟨fun h => ⟨_, exec_load h, rfl, reg_effect_load s x⟩,
    fun h => exec_of_outside rfl (Nat.succ_ne_zero _) (by simp only [memSize]; omega)⟩

/-- Settles O32: the load reads each register's byte where the dump has put it. -/
theorem loadAfterDumpRestoresRegisters : Obligations.LoadAfterDumpRestoresRegisters := by
  intro s t u x hfits hdump hmem hindex
  cases (exec_dump hfits).symm.trans hdump
  refine ⟨_, exec_load (by rwa [hindex]), fun z hz => ?_⟩
  have haddr : u.effectiveAddr z.val = s.effectiveAddr z.val := by rw [State.effectiveAddr, hindex, State.effectiveAddr]
  rw [reg_effect_load, if_pos hz, hmem, read_effect_dump, haddr, s.byteAfterDump_covered hz]

/-! ## Fetch after a store (20_memory.md section 8) -/

/-- A step whose fetched word is known runs the instruction of that word. -/
theorem step_of_fetchWord {s : State} {w : Word} {i : Instr} (hrun : s.halt = .running)
    (hpc : s.pc.toNat + 1 ≤ 0xFFF) (hw : s.fetchWord = w) (hd : decode w = .ok i) :
    step s = exec i { s with cur := w, pc := s.pc + 2#16 } := by
  subst hw
  exact step_of_decoded hrun (s.canFetch_iff.2 (by omega)) hd

/-- Settles O33: the fetch reads the two bytes that `read_effect_dump` or `read_effect_ldB` gives. -/
theorem storeIsSeenByTheNextFetch : Obligations.StoreIsSeenByTheNextFetch := by
  intro s t u x i hmem hrun hpc
  refine ⟨fun hfits hdump hd => ?dump, fun hfits hbcd hd => ?bcd⟩
  case dump =>
    cases (exec_dump hfits).symm.trans hdump
    exact step_of_fetchWord hrun hpc (by rw [State.fetchWord, hmem, read_effect_dump, read_effect_dump]) hd
  case bcd =>
    cases (exec_ldB hfits).symm.trans hbcd
    exact step_of_fetchWord hrun hpc (by rw [State.fetchWord, hmem, read_effect_ldB, read_effect_ldB]) hd

/-! ## The canonical form -/

/-- Below the first address it may list, a memory reads what is unlisted. -/
theorem Memory.read_of_lt_wfFrom {m : Memory} {lo a : Nat} (w : Memory.wfFrom lo m = true) (h : a < lo) :
    m.read a = unlistedByte a := by
  induction m generalizing lo with
  | nil => rfl
  | cons e rest ih =>
    obtain ⟨k, b⟩ := e
    simp only [Memory.wfFrom, Bool.and_eq_true, decide_eq_true_eq] at w
    obtain ⟨⟨⟨hk, _⟩, _⟩, hrest⟩ := w
    rw [Memory.read, if_neg (by omega), ih hrest (by omega)]

/-- The head of a canonical memory is a byte that differs from the unlisted one. -/
theorem Memory.read_head_ne {lo k : Nat} {b : Byte} {rest : Memory} (w : Memory.wfFrom lo ((k, b) :: rest) = true) :
    Memory.read ((k, b) :: rest) k ≠ unlistedByte k := by
  simp only [Memory.wfFrom, Bool.and_eq_true, bne_iff_ne] at w
  rw [Memory.read, if_pos rfl]
  exact w.1.2

theorem Memory.wfFrom_head {lo k : Nat} {b : Byte} {rest : Memory} (w : Memory.wfFrom lo ((k, b) :: rest) = true) :
    Memory.wfFrom k ((k, b) :: rest) = true := by
  simp only [Memory.wfFrom, Bool.and_eq_true, decide_eq_true_eq] at w ⊢
  obtain ⟨⟨⟨_, hk⟩, hb⟩, hrest⟩ := w
  exact ⟨⟨⟨le_refl k, hk⟩, hb⟩, hrest⟩

/-- A memory that reads like a listed one lists something no later than the other's first address. -/
theorem Memory.head_le_of_reads {lo lo' k k' : Nat} {b b' : Byte} {r r' : Memory}
    (w : Memory.wfFrom lo ((k, b) :: r) = true) (w' : Memory.wfFrom lo' ((k', b') :: r') = true)
    (h : ∀ a, Memory.read ((k, b) :: r) a = Memory.read ((k', b') :: r') a) : k' ≤ k := by
  by_contra hlt
  exact Memory.read_head_ne w
    ((h k).trans (Memory.read_of_lt_wfFrom (Memory.wfFrom_head w') (Nat.lt_of_not_le hlt)))

theorem Memory.eq_of_reads {lo lo' : Nat} {m m' : Memory} (w : Memory.wfFrom lo m = true)
    (w' : Memory.wfFrom lo' m' = true) (h : ∀ a, m.read a = m'.read a) : m = m' := by
  induction m generalizing lo lo' m' with
  | nil =>
    cases m' with
    | nil => rfl
    | cons e' r' => exact absurd (h e'.1).symm (Memory.read_head_ne w')
  | cons e r ih =>
    obtain ⟨k, b⟩ := e
    cases m' with
    | nil => exact absurd (h k) (Memory.read_head_ne w)
    | cons e' r' =>
      obtain ⟨k', b'⟩ := e'
      obtain rfl : k = k' :=
        Nat.le_antisymm (Memory.head_le_of_reads w' w fun a => (h a).symm) (Memory.head_le_of_reads w w' h)
      obtain rfl : b = b' := by simpa only [Memory.read, if_true] using h k
      simp only [Memory.wfFrom, Bool.and_eq_true] at w w'
      have hrest : ∀ a, Memory.read r a = Memory.read r' a := by
        intro a
        by_cases ha : k = a
        · subst ha
          rw [Memory.read_of_lt_wfFrom w.2 (Nat.lt_succ_self k), Memory.read_of_lt_wfFrom w'.2 (Nat.lt_succ_self k)]
        · simpa only [Memory.read, if_neg ha] using h a
      rw [ih w.2 w'.2 hrest]

/-- Settles O34, by induction on the two lists: their first addresses agree, since below its first address a
canonical memory reads what is unlisted, and there it does not. -/
theorem canonicalMemoriesWithEqualReadsAreEqual : Obligations.CanonicalMemoriesWithEqualReadsAreEqual :=
  fun _ _ => Memory.eq_of_reads

end Sys2Proof.Machine
end

section
/-! DRW (spec/43_display.md R191 to R197): drawing a sprite is drawing its pixels one after the other, no two of
them on one cell, so that each cell is decided by its own pixel and the collision by the display drawn on. -/

namespace Sys2Proof.Machine

/-! ## A sprite as a list of pixels -/

/-- A row, a column and a sprite bit. -/
abbrev Pixel := Fin 32 × Fin 64 × Bool

def drawPixels (ps : List Pixel) (d : Canvas) : Canvas := ps.foldl (fun d p => drawPixel p.1 p.2.1 p.2.2 d) d

/-- The pixels of one row of a sprite. -/
def rowPixels (vx : Byte) (r : Fin 32) (b : Byte) : List Pixel :=
  (List.range 8).map fun col => (r, targetCol vx col, spritePixel b col)

/-- The pixels of the rows of a sprite from number `row` on. -/
def spritePixels (vx vy : Byte) : Nat → List Byte → List Pixel
  | _, [] => []
  | row, b :: bs => rowPixels vx (targetRow vy row) b ++ spritePixels vx vy (row + 1) bs

theorem drawRow_eq (vx : Byte) (r : Fin 32) (b : Byte) (d : Canvas) :
    drawRow vx r b d = drawPixels (rowPixels vx r b) d := by
  rw [drawRow, drawPixels, rowPixels, List.foldl_map]

theorem drawRows_eq (vx vy : Byte) (row : Nat) (bs : List Byte) (d : Canvas) :
    drawRows vx vy row bs d = drawPixels (spritePixels vx vy row bs) d := by
  induction bs generalizing row d with
  | nil => rfl
  | cons b bs ih => rw [drawRows, ih, drawRow_eq, spritePixels, drawPixels, drawPixels, drawPixels, List.foldl_append]

theorem mem_rowPixels {vx b : Byte} {r : Fin 32} {p : Pixel} :
    p ∈ rowPixels vx r b ↔ ∃ col < 8, p = (r, targetCol vx col, spritePixel b col) := by
  simp only [rowPixels, List.mem_map, List.mem_range, eq_comm]

theorem mem_spritePixels {vx vy : Byte} {row : Nat} {bs : List Byte} {p : Pixel} :
    p ∈ spritePixels vx vy row bs ↔ ∃ j col, j < bs.length ∧ col < 8 ∧
      p = (targetRow vy (row + j), targetCol vx col, spritePixel (bs.getD j 0#8) col) := by
  induction bs generalizing row with
  | nil => simp [spritePixels]
  | cons b bs ih =>
    rw [spritePixels, List.mem_append, mem_rowPixels, ih]
    constructor
    · rintro (⟨col, hcol, rfl⟩ | ⟨j, col, hj, hcol, rfl⟩)
      · exact ⟨0, col, Nat.succ_pos _, hcol, rfl⟩
      · exact ⟨j + 1, col, Nat.succ_lt_succ hj, hcol, by rw [List.getD_cons_succ, Nat.add_right_comm, Nat.add_assoc]⟩
    · rintro ⟨j, col, hj, hcol, rfl⟩
      cases j with
      | zero => exact .inl ⟨col, hcol, rfl⟩
      | succ j =>
        exact .inr ⟨j, col, Nat.lt_of_succ_lt_succ hj, hcol,
          by rw [List.getD_cons_succ, Nat.add_right_comm, Nat.add_assoc]⟩

/-! ## No two pixels of a sprite fall on one cell -/

/-- Two pixels on different cells. -/
def Pixel.Apart (p q : Pixel) : Prop := ¬ (p.1 = q.1 ∧ p.2.1 = q.2.1)

theorem targetRow_ne {vy : Byte} {a b : Nat} (h : a < b) (hb : b < a + 32) : targetRow vy a ≠ targetRow vy b := by
  intro he
  have hv := congrArg Fin.val he
  simp only [targetRow, Fin.ofNat] at hv
  omega

theorem targetCol_ne {vx : Byte} {a b : Nat} (h : a < b) (hb : b < a + 64) : targetCol vx a ≠ targetCol vx b := by
  intro he
  have hv := congrArg Fin.val he
  simp only [targetCol, Fin.ofNat] at hv
  omega

theorem apart_rowPixels (vx : Byte) (r : Fin 32) (b : Byte) : (rowPixels vx r b).Pairwise Pixel.Apart := by
  rw [rowPixels, List.pairwise_map]
  refine List.Pairwise.imp_of_mem (fun {i j} hi hj hlt => ?_) List.pairwise_lt_range
  rw [List.mem_range] at hi hj
  exact fun h => targetCol_ne hlt (by omega) h.2

theorem apart_spritePixels (vx vy : Byte) (row : Nat) {bs : List Byte} (h : bs.length ≤ 32) :
    (spritePixels vx vy row bs).Pairwise Pixel.Apart := by
  induction bs generalizing row with
  | nil => exact List.Pairwise.nil
  | cons b bs ih =>
    rw [List.length_cons] at h
    rw [spritePixels, List.pairwise_append]
    refine ⟨apart_rowPixels .., ih (row + 1) (by omega), fun p hp q hq => ?_⟩
    obtain ⟨col, _, rfl⟩ := mem_rowPixels.1 hp
    obtain ⟨j, col', hj, _, rfl⟩ := mem_spritePixels.1 hq
    exact fun h => targetRow_ne (by omega) (by omega) h.1

/-! ## Drawing pixels on different cells -/

theorem drawPixels_cons (p : Pixel) (ps : List Pixel) (d : Canvas) :
    drawPixels (p :: ps) d = drawPixels ps (drawPixel p.1 p.2.1 p.2.2 d) := rfl

/-- A pixel does not touch the cells of the pixels apart from it. -/
theorem cell_drawPixel_apart {p q : Pixel} (h : p.Apart q) (d : Canvas) :
    Framebuffer.cell (drawPixel p.1 p.2.1 p.2.2 d).1 q.1 q.2.1 = Framebuffer.cell d.1 q.1 q.2.1 := by
  rw [cell_drawPixel, if_neg]
  exact fun ⟨hr, hc⟩ => h ⟨hr.symm, hc.symm⟩

/-- A cell ends lit exactly when it was lit or some pixel sets it, not both. -/
theorem cell_drawPixels {ps : List Pixel} (hps : ps.Pairwise Pixel.Apart) (d : Canvas) (r : Fin 32) (c : Fin 64) :
    Framebuffer.cell (drawPixels ps d).1 r c = true ↔
      (Framebuffer.cell d.1 r c = true ↔ (r, c, true) ∉ ps) := by
  induction ps generalizing d with
  | nil => simp [drawPixels]
  | cons p ps ih =>
    obtain ⟨r', c', bit⟩ := p
    obtain ⟨hp, hps⟩ := List.pairwise_cons.1 hps
    rw [drawPixels_cons, ih hps, cell_drawPixel, List.mem_cons]
    by_cases hcell : r = r' ∧ c = c'
    · obtain ⟨rfl, rfl⟩ := hcell
      have hrest : (r, c, true) ∉ ps := fun hmem => hp _ hmem ⟨rfl, rfl⟩
      cases bit <;> simp [hrest]
    · have hne : ¬ (r, c, true) = (r', c', bit) := by
        intro he
        cases he
        exact hcell ⟨rfl, rfl⟩
      simp [hcell, hne]

/-- The collision is that of the pixels with the display they are drawn on, not with one another. -/
theorem collision_drawPixels {ps : List Pixel} (hps : ps.Pairwise Pixel.Apart) (d : Canvas) :
    (drawPixels ps d).2 = true ↔
      d.2 = true ∨ ∃ r c, Framebuffer.cell d.1 r c = true ∧ (r, c, true) ∈ ps := by
  induction ps generalizing d with
  | nil => simp [drawPixels]
  | cons p ps ih =>
    obtain ⟨r', c', bit⟩ := p
    obtain ⟨hp, hps⟩ := List.pairwise_cons.1 hps
    have hlater : ∀ r c, (r, c, true) ∈ ps →
        Framebuffer.cell (drawPixel r' c' bit d).1 r c = Framebuffer.cell d.1 r c :=
      fun r c hmem => cell_drawPixel_apart (hp _ hmem) d
    rw [drawPixels_cons, ih hps, collision_drawPixel, Bool.or_eq_true, Bool.and_eq_true, or_assoc]
    refine or_congr_right ⟨?_, ?_⟩
    · rintro (⟨hlit, rfl⟩ | ⟨r, c, hlit, hmem⟩)
      · exact ⟨r', c', hlit, List.mem_cons_self⟩
      · exact ⟨r, c, hlater r c hmem ▸ hlit, List.mem_cons_of_mem _ hmem⟩
    · rintro ⟨r, c, hlit, hmem⟩
      rcases List.mem_cons.1 hmem with he | hmem
      · cases he
        exact .inl ⟨hlit, rfl⟩
      · exact .inr ⟨r, c, (hlater r c hmem).trans hlit, hmem⟩

/-! ## The sprite DRW draws -/

/-- The pixels DRW Vx, Vy, n draws. -/
def State.sprite (s : State) (x y : Reg) (n : Nat) : List Pixel :=
  spritePixels (s.reg x) (s.reg y) 0 (s.mem.readBytes s.index.toNat n)

theorem State.draw_eq (s : State) (x y : Reg) (n : Nat) :
    s.draw x y n = drawPixels (s.sprite x y n) (s.fb, false) := drawRows_eq ..

theorem State.apart_sprite (s : State) (x y : Reg) (n : Fin 16) : (s.sprite x y n.val).Pairwise Pixel.Apart :=
  apart_spritePixels _ _ _ (by rw [Memory.length_readBytes]; omega)

/-- The set pixels of the sprite are on the cells `SpriteCovers` names. -/
theorem State.mem_sprite (s : State) (x y : Reg) (n : Nat) (r : Fin 32) (c : Fin 64) :
    (r, c, true) ∈ s.sprite x y n ↔ s.SpriteCovers x y n r c := by
  rw [State.sprite, mem_spritePixels, Memory.length_readBytes, State.SpriteCovers]
  refine exists_congr fun row => exists_congr fun col => and_congr_right fun hrow => and_congr_right fun _ => ?_
  rw [Memory.getD_readBytes _ _ _ _ hrow, Nat.zero_add]
  simp only [Prod.mk.injEq, Fin.ext_iff, targetRow, targetCol, Fin.ofNat, spritePixel, State.effectiveAddr, eq_comm]

theorem State.cell_draw (s : State) (x y : Reg) (n : Fin 16) (r : Fin 32) (c : Fin 64) :
    Framebuffer.cell (s.draw x y n.val).1 r c = true ↔
      (Framebuffer.cell s.fb r c = true ↔ ¬ s.SpriteCovers x y n.val r c) := by
  rw [s.draw_eq, cell_drawPixels (s.apart_sprite x y n), s.mem_sprite]

theorem State.collision_draw (s : State) (x y : Reg) (n : Fin 16) :
    (s.draw x y n.val).2 = true ↔
      ∃ r c, Framebuffer.cell s.fb r c = true ∧ s.SpriteCovers x y n.val r c := by
  rw [s.draw_eq, collision_drawPixels (s.apart_sprite x y n)]
  simp only [s.mem_sprite, Bool.false_eq_true, false_or]

/-! ## DRW -/

section Drw

variable {s : State} {x y : Reg} {n : Fin 16}

theorem exec_drw (h : n.val = 0 ∨ s.index.toNat + n.val - 1 ≤ 0xFFF) :
    exec (.drw x y n) s = .next (effect (.drw x y n) s) :=
  exec_of_not_raises (State.rangeFatal_of_fits (by simp only [memSize]; omega))

theorem effect_drw_fb : (effect (.drw x y n) s).fb = (s.draw x y n.val).1 := rfl

theorem reg_effect_drw (z : Reg) :
    (effect (.drw x y n) s).reg z = if z = vf then flagByte (s.draw x y n.val).2 else s.reg z :=
  State.reg_setReg _ vf z _

theorem flagByte_eq_one_iff (f : Bool) : flagByte f = 1#8 ↔ f = true := by cases f <;> decide

theorem vf_effect_drw : (effect (.drw x y n) s).reg vf = 1#8 ↔
    ∃ r c, Framebuffer.cell s.fb r c = true ∧ s.SpriteCovers x y n.val r c := by
  rw [reg_effect_drw, if_pos rfl, flagByte_eq_one_iff, s.collision_draw]

end Drw

/-- Settles O36: with the sprite inside the memory DRW is its effect, whose display and flag are `State.cell_draw`
and `State.collision_draw`. -/
theorem drawXorsTheSpriteAndReportsCollision : Obligations.DrawXorsTheSpriteAndReportsCollision := by
  intro s x y n h
  refine ⟨_, exec_drw h, rfl, s.cell_draw x y n, ?flag, vf_effect_drw, fun z hz => ?others⟩
  case flag =>
    rw [reg_effect_drw, if_pos rfl]
    cases (s.draw x y n.val).2
    · exact .inr rfl
    · exact .inl rfl
  case others => rw [reg_effect_drw, if_neg hz]

/-- Settles O37: the range of the sprite fails the check, which comes before the draw. -/
theorem spritePastTheEndHalts : Obligations.SpritePastTheEndHalts := by
  intro s x y n hn h
  exact exec_of_outside rfl (by omega) (by simp only [memSize]; omega)

/-- A draw that reads its place from other registers than VF leaves the sprite where it was. -/
theorem spriteCovers_effect_drw {s : State} {x y : Reg} (hx : x ≠ vf) (hy : y ≠ vf) (n : Fin 16) (r : Fin 32)
    (c : Fin 64) :
    (effect (.drw x y n) s).SpriteCovers x y n.val r c ↔ s.SpriteCovers x y n.val r c := by
  rw [State.SpriteCovers, reg_effect_drw, reg_effect_drw, if_neg hx, if_neg hy]
  rfl

/-- Settles O38: the two draws exclusive-or the same sprite onto the display, so each cell is as it was. -/
theorem drawingTwiceRestoresTheDisplay : Obligations.DrawingTwiceRestoresTheDisplay := by
  intro s t u x y n hx hy h ht hu
  cases (exec_drw h).symm.trans ht
  cases (exec_drw (s := effect (.drw x y n) s) h).symm.trans hu
  have hcovers := spriteCovers_effect_drw (s := s) hx hy n
  refine ⟨Framebuffer.ext_cells fun r c => ?cell, ?flag⟩
  case cell =>
    rw [Bool.eq_iff_iff, effect_drw_fb, State.cell_draw, effect_drw_fb, s.cell_draw, hcovers]
    tauto
  case flag =>
    rw [vf_effect_drw]
    simp only [hcovers]

end Sys2Proof.Machine
end

section
/-! The invariant: it holds at reset, and every step, every host action and so every run keeps it
(spec/10_state.md R29, R32, R43; spec/60_exceptions.md R237, R238, R253). -/

namespace Sys2Proof.Machine

/-! ## Reset and the host actions -/

theorem State.HaltAgrees.of_running {s : State} (h : s.halt = .running) : s.HaltAgrees := by
  simp only [State.HaltAgrees, h]

/-- A Reset with an image that fits leaves a state that meets the invariant. -/
theorem State.inv_afterReset (font : Font) {image : List Byte} (h : image.length ≤ 0xE00) (n : Nat) :
    (State.afterReset font image n).Inv where
  memCanonical := wf_resetMemory font h
  pcInRange := by rw [State.afterReset_pc]; decide
  stackFits := Nat.zero_le _
  stackEntries := fun _ ha => absurd ha List.not_mem_nil
  haltAgrees := .of_running rfl

/-- Settles O54: the reset state is one that Reset leaves, with the default FONT and no image. -/
theorem resetStateMeetsTheInvariant : Obligations.ResetStateMeetsTheInvariant := by
  have h : State.afterReset defaultFont [] 0 = State.reset := by rw [State.afterReset, resetMemory_default]; rfl
  have hInv := State.inv_afterReset defaultFont (image := []) (Nat.zero_le _) 0
  rwa [h] at hInv

/-- The invariant speaks of the memory, the pc, the stack and the halt state alone. -/
theorem State.Inv.congr {s t : State} (h : s.Inv) (hmem : t.mem = s.mem) (hpc : t.pc = s.pc)
    (hstack : t.stack = s.stack) (hhalt : t.halt = s.halt) : t.Inv where
  memCanonical := hmem ▸ h.memCanonical
  pcInRange := hpc ▸ h.pcInRange
  stackFits := hstack ▸ h.stackFits
  stackEntries := hstack ▸ h.stackEntries
  haltAgrees := by simpa only [State.HaltAgrees, hpc, hhalt] using h.haltAgrees

theorem hostAct_reset_of_long (font : Font) {image : List Byte} (s : State) (h : 0xE00 < image.length) :
    hostAct font (.reset image) s = (s, .loadError image.length) := by
  have hf : imageFits image = false := by
    rw [← Bool.not_eq_true, imageFits_iff]
    omega
  simp [hostAct, hostReset, hf]

/-- Settles O56: a Reset leaves the state of `State.inv_afterReset` or changes nothing, and no other host action
touches what the invariant speaks of. -/
theorem hostActionsKeepTheInvariant : Obligations.HostActionsKeepTheInvariant := by
  intro font a s h
  cases a with
  | reset image =>
    by_cases hlen : image.length ≤ 0xE00
    · rw [hostAct_reset_of_fits font s hlen]
      exact State.inv_afterReset font hlen s.draws
    · rw [hostAct_reset_of_long font s (Nat.lt_of_not_le hlen)]
      exact h
  | setKeys | tick => exact h.congr rfl rfl rfl rfl
  | readDisplay | readTimers | readState => exact h

/-! ## A halted state -/

/-- A condition raised at execute by the instruction just fetched is recorded as R231 and R237 ask. -/
theorem legal_of_raises {i : Instr} {s : State} {f : Fatal} (hd : decode s.cur = .ok i) (h : raises i s = some f) :
    FatalRecord.Legal ⟨f.kind, some s.cur, s.pc - 2#16, f.addr⟩ := by
  rcases raises_cases h with ⟨rfl, _, rfl⟩ | ⟨⟨nnn, rfl⟩, _, rfl⟩ | ⟨hi, a, ha, rfl⟩
  · exact (encodeOfDecodeIsTheWord _ _ hd).symm
  · exact ⟨nnn, hd⟩
  · exact ⟨ha, i, hd, hi⟩

/-- Halting by a legal record keeps the rest of the invariant. -/
theorem State.Inv.takeFatal {s : State} (h : s.Inv) {kind : FatalKind} {addr : Option Nat}
    (hl : FatalRecord.Legal ⟨kind, some s.cur, s.pc - 2#16, addr⟩) : (s.takeFatal kind addr).Inv where
  memCanonical := h.memCanonical
  pcInRange := h.pcInRange
  stackFits := h.stackFits
  stackEntries := h.stackEntries
  haltAgrees := ⟨hl, by simp [State.takeFatal]⟩

theorem State.Inv.takeFetchFatal {s : State} (h : s.Inv) (hf : s.canFetch = false) : s.takeFetchFatal.Inv where
  memCanonical := h.memCanonical
  pcInRange := h.pcInRange
  stackFits := h.stackFits
  stackEntries := h.stackEntries
  haltAgrees := by
    have hpc : ¬ s.pc.toNat ≤ 0xFFE := by rw [← s.canFetch_iff, hf]; exact Bool.false_ne_true
    exact ⟨⟨rfl, by simp only; omega⟩, rfl⟩

/-! ## The fetched state -/

/-- What execute may assume: the invariant, a running Machine, and a pc two bytes past an instruction. -/
structure State.Executing (s : State) : Prop where
  inv : s.Inv
  running : s.halt = .running
  pcLow : 2 ≤ s.pc.toNat
  pcHigh : s.pc.toNat ≤ 0x1000

theorem State.Inv.executing_fetched {s : State} (h : s.Inv) (hrun : s.halt = .running) (hf : s.canFetch = true) :
    s.fetched.Executing := by
  have hpc := s.canFetch_iff.1 hf
  have hnext : s.fetched.pc.toNat = s.pc.toNat + 2 := by
    rw [State.fetched_pc, BitVec.toNat_add]
    simp only [BitVec.toNat_ofNat]
    omega
  refine ⟨⟨h.memCanonical, by omega, h.stackFits, h.stackEntries, .of_running hrun⟩, hrun, by omega, by omega⟩

/-! ## The effect of an instruction -/

/-- A range check that raises nothing says that the bytes lie inside the memory. -/
theorem index_fits_of_rangeFatal {s : State} {k : Nat} (hk : k ≠ 0) (h : s.rangeFatal k = none) :
    s.index.toNat + k ≤ memSize := by
  have hfits : rangeFits s.index.toNat k = true := by
    by_contra hf
    simp [State.rangeFatal, hf] at h
  exact ((rangeFits_iff _ _).1 hfits).resolve_left hk

theorem extendNnn_le (nnn : Addr12) : (extendNnn nnn).toNat ≤ 0x10FE := by
  have hn := nnn.isLt
  rw [toNat_extendNnn]
  omega

/-- The sum of a byte and a 12-bit address is at most 0x10FE, so the pc holds it in full (R127). -/
theorem toNat_jpV0_target (b : Byte) (nnn : Addr12) :
    (BitVec.ofNat 16 (b.toNat + nnn.toNat)).toNat = b.toNat + nnn.toNat := by
  have hb := b.isLt
  have hn := nnn.isLt
  rw [BitVec.toNat_ofNat]
  omega

section Effect

variable {s : State} (h : s.Executing)
include h

theorem State.Executing.pcAfterSkip_le (c : Bool) : (s.pcAfterSkip c).toNat ≤ 0x10FE := by
  have hhigh := h.pcHigh
  rw [State.pcAfterSkip]
  split
  · rw [BitVec.toNat_add, BitVec.toNat_ofNat]
    omega
  · omega

theorem State.Executing.keyWait_pc_le (x : Reg) : (s.keyWait x).pc.toNat ≤ 0x10FE := by
  have hlow := h.pcLow
  have hhigh := h.pcHigh
  rw [State.keyWait]
  cases keyPick s.keys with
  | none =>
    rw [State.setPc_pc, BitVec.toNat_sub, BitVec.toNat_ofNat]
    omega
  | some k =>
    rw [State.setReg_pc]
    omega

theorem State.Executing.return_pc_le : (s.stack.headD 0#16).toNat ≤ 0x10FE := by
  cases hs : s.stack with
  | nil => simp
  | cons a rest =>
    have ha := h.inv.stackEntries a (by simp [hs])
    simp only [List.headD_cons]
    omega

theorem State.Executing.effect_pc_le (i : Instr) : (effect i s).pc.toNat ≤ 0x10FE := by
  have hInv := h.inv.pcInRange
  cases i with
  | ret => exact h.return_pc_le
  | jp nnn | call nnn => exact extendNnn_le nnn
  | seImm | sneImm | seReg | sneReg | skp | sknp => exact h.pcAfterSkip_le _
  | ldVxK x => exact h.keyWait_pc_le x
  | jpV0 nnn =>
    have hb := (s.reg 0).isLt
    have hn := nnn.isLt
    change (BitVec.ofNat 16 ((s.reg 0).toNat + nnn.toNat)).toNat ≤ 0x10FE
    rw [toNat_jpV0_target]
    omega
  | _ => exact hInv

variable {i : Instr} (hn : raises i s = none)
include hn

theorem State.Executing.effect_mem_wf : (effect i s).mem.wf = true := by
  have hInv := h.inv.memCanonical
  cases i with
  | ldB x => exact Memory.wf_writeBytes hInv (index_fits_of_rangeFatal (k := 3) (by decide) hn)
  | dump x =>
    refine Memory.wf_writeBytes hInv ?_
    rw [State.length_regsUpTo]
    exact index_fits_of_rangeFatal (Nat.succ_ne_zero _) hn
  | _ => exact hInv

theorem State.Executing.effect_stack : (effect i s).stack.length ≤ stackDepth ∧
    ∀ a ∈ (effect i s).stack, 2 ≤ a.toNat ∧ a.toNat ≤ 0x1000 := by
  have hfits := h.inv.stackFits
  have hentries := h.inv.stackEntries
  cases i with
  | ret =>
    refine ⟨?_, fun a ha => hentries a (List.mem_of_mem_tail ha)⟩
    change s.stack.tail.length ≤ stackDepth
    rw [List.length_tail]
    omega
  | call nnn =>
    have hlen : ¬ stackDepth ≤ s.stack.length := fun hle => by simp [raises, hle] at hn
    refine ⟨?_, fun a ha => ?_⟩
    · change s.stack.length + 1 ≤ stackDepth
      omega
    · rcases List.mem_cons.1 ha with rfl | ha
      · exact ⟨h.pcLow, h.pcHigh⟩
      · exact hentries a ha
  | _ => exact ⟨hfits, hentries⟩

theorem State.Executing.inv_effect : (effect i s).Inv where
  memCanonical := h.effect_mem_wf hn
  pcInRange := h.effect_pc_le i
  stackFits := (h.effect_stack hn).1
  stackEntries := (h.effect_stack hn).2
  haltAgrees := .of_running ((effect_halt i s).trans h.running)

end Effect

/-- Whatever the instruction just fetched answers meets the invariant. -/
theorem State.Executing.inv_exec {i : Instr} {s t : State} (h : s.Executing) (hd : decode s.cur = .ok i)
    (he : exec i s = .next t) : t.Inv := by
  rcases exec_cases he with ⟨f, hf, rfl⟩ | ⟨hn, rfl⟩
  · exact h.inv.takeFatal (legal_of_raises hd hf)
  · exact h.inv_effect hn

/-! ## Steps and runs -/

/-- Settles O55, by the four things a step can be: the invariant is kept by doing nothing, by each of the two
conditions the step itself raises, and by the decoded instruction. -/
theorem stepKeepsTheInvariant : Obligations.StepKeepsTheInvariant := by
  intro s t h hstep
  rcases step_cases s with ⟨r, _, he⟩ | ⟨_, hf, he⟩ | ⟨hrun, hf, ⟨e, hd⟩, he⟩ | ⟨hrun, hf, i, hd, he⟩
  · cases he.symm.trans hstep
    exact h
  · cases he.symm.trans hstep
    exact h.takeFetchFatal hf
  · cases he.symm.trans hstep
    exact (h.executing_fetched hrun hf).inv.takeFatal (by rwa [decode_error hd] at hd)
  · exact (h.executing_fetched hrun hf).inv_exec hd (he.symm.trans hstep)

/-- One event from a platform that meets the invariant is answered, and ends in one that does. -/
theorem exists_move_inv (font : Font) (e : Event) {p : Platform} (h : p.machine.Inv) :
    ∃ q, move font e p = .next q ∧ q.machine.Inv := by
  cases e with
  | step =>
    obtain ⟨t, ht⟩ := everyStepHasANextState p.machine
    exact ⟨_, move_step ht, stepKeepsTheInvariant _ _ h ht⟩
  | host a => exact ⟨_, rfl, hostActionsKeepTheInvariant font a _ h⟩

/-- Settles O57, by induction on the events. -/
theorem everyRunMeetsTheInvariant : Obligations.EveryRunMeetsTheInvariant := by
  intro font es
  induction es with
  | nil => exact fun p h => ⟨p, rfl, h⟩
  | cons e es ih =>
    intro p h
    obtain ⟨q, hq, hqInv⟩ := exists_move_inv font e h
    rw [run_cons hq]
    exact ih q hqInv

end Sys2Proof.Machine
end

section
/-! The step as a whole (spec/00_scope.md R7; spec/20_memory.md R66, R67; spec/60_exceptions.md R235, R239). -/

namespace Sys2Proof.Machine

theorem decode_of_decodeBytes {hi lo : Byte} {i : Instr} (h : decodeBytes [hi, lo] = .ok (i, [])) :
    decode (wordOfBytes hi lo) = .ok i := by
  rw [decodeBytes] at h
  cases hd : decode (wordOfBytes hi lo) with
  | error e =>
    rw [hd] at h
    cases h
  | ok j =>
    rw [hd] at h
    cases h
    rfl

/-- Settles O6: the word fetched is the one of the two bytes. -/
theorem stepRunsTheDecodedInstruction : Obligations.StepRunsTheDecodedInstruction := by
  intro s i hrun hpc hd
  exact step_of_fetchWord hrun hpc rfl (decode_of_decodeBytes hd)

/-- Settles O7: the fetch fails, and `State.takeFetchFatal` is the state R67 asks for. -/
theorem fetchPastTheEndHalts : Obligations.FetchPastTheEndHalts := by
  intro s hrun hpc
  have hf : s.canFetch = false := by
    rw [← Bool.not_eq_true, s.canFetch_iff]
    omega
  exact step_of_fetchFatal hrun hf

/-- Settles O8: the condition is raised on the fetched state, whose pc less 2 is the pc at fetch. -/
theorem invalidWordHaltsWithWordAndPc : Obligations.InvalidWordHaltsWithWordAndPc := by
  intro s e hrun hpc hd
  rw [step_of_invalid hrun (s.canFetch_iff.2 (by omega)) hd, State.raise_eq, State.fetched_pc, BitVec.add_sub_cancel]
  rfl

end Sys2Proof.Machine
end

section
/-! RET, CALL and JP V0, and the terminal idiom (spec/40_control_flow.md R120, R122, R127;
spec/70_reset_and_hazards.md R277). -/

namespace Sys2Proof.Machine

theorem exec_ret_cons {s : State} {a : Word} {rest : List Word} (h : s.stack = a :: rest) :
    exec .ret s = .next { s with pc := a, stack := rest } := by
  rw [exec, execRet, h]
  rfl

theorem exec_ret_nil {s : State} (h : s.stack = []) : exec .ret s = .next (s.HaltedBy .stackUnderflow none) :=
  exec_of_raises (f := ⟨.stackUnderflow, none⟩) (if_pos h)

theorem exec_call {s : State} (nnn : Addr12) (h : s.stack.length < 16) :
    exec (.call nnn) s = .next { s with pc := extendNnn nnn, stack := s.pc :: s.stack } :=
  exec_of_not_raises (if_neg (Nat.not_le_of_lt h))

theorem exec_call_full {s : State} (nnn : Addr12) (h : 16 ≤ s.stack.length) :
    exec (.call nnn) s = .next (s.HaltedBy .stackOverflow none) :=
  exec_of_raises (f := ⟨.stackOverflow, none⟩) (if_pos h)

/-- Settles O12, by the two forms of the stack. -/
theorem retPopsOrUnderflows : Obligations.RetPopsOrUnderflows :=
  fun _ => ⟨fun _ _ => exec_ret_cons, exec_ret_nil⟩

/-- Settles O14, by the two sides of the depth check. -/
theorem callPushesOrOverflows : Obligations.CallPushesOrOverflows :=
  fun _ nnn => ⟨fun h => ⟨extendNnn nnn, toNat_extendNnn nnn, exec_call nnn h⟩, exec_call_full nnn⟩

/-- Settles O15: the stack RET pops is the one with the return address on top. -/
theorem returnUndoesCall : Obligations.ReturnUndoesCall := by
  intro s t u nnn hlen hcall hstack
  cases (exec_call nnn hlen).symm.trans hcall
  exact exec_ret_cons hstack

/-- Settles O17: the sum fits the pc. -/
theorem jumpWithOffsetAddsV0 : Obligations.JumpWithOffsetAddsV0 :=
  fun s nnn => ⟨_, toNat_jpV0_target (s.reg 0) nnn, rfl⟩

/-- Settles O53: the jump puts the pc back to where the word was fetched. -/
theorem terminalStateRepeats : Obligations.TerminalStateRepeats := by
  rintro s ⟨hrun, hf, nnn, hd, hpc⟩
  rw [step_of_decoded hrun hf hd, exec_jp, hpc]
  rfl

end Sys2Proof.Machine
end

section
/-! The register and ALU instructions (spec/41_alu.md R140 to R151). -/

namespace Sys2Proof.Machine

theorem State.writesRegThenVf_setResultThenFlag (s : State) (x : Reg) (result flag : Byte) :
    s.WritesRegThenVf (s.setResultThenFlag x result flag) x result flag :=
  ⟨rfl, fun z => s.reg_setResultThenFlag x z result flag⟩

theorem exec_rnd (x : Reg) (kk : Byte) (s : State) :
    exec (.rnd x kk) s = .next ((s.setReg x (Config.randomByte s.draws &&& kk)).setDraws (s.draws + 1)) := rfl

/-- Settles O19: each of the two is one register write. -/
theorem loadsWriteTheRegisterAlone : Obligations.LoadsWriteTheRegisterAlone :=
  fun s x y kk => ⟨⟨_, rfl, s.writesReg_setReg x kk⟩, ⟨_, rfl, s.writesReg_setReg x (s.reg y)⟩⟩

/-- Settles O21: each of the three is one register write, of a byte combined bit by bit. -/
theorem logicWritesTheRegisterAlone : Obligations.LogicWritesTheRegisterAlone :=
  fun s x _ => ⟨⟨_, _, rfl, s.writesReg_setReg x _, fun _ => BitVec.getLsbD_or⟩,
    ⟨_, _, rfl, s.writesReg_setReg x _, fun _ => BitVec.getLsbD_and⟩,
    ⟨_, _, rfl, s.writesReg_setReg x _, fun _ => BitVec.getLsbD_xor⟩⟩

/-! ## The results and the flags as numbers -/

theorem toNat_carryFlag (a b : Byte) : (carryFlag a b).toNat = if a.toNat + b.toNat > 255 then 1 else 0 := by
  simp only [carryFlag, toNat_flagByte, decide_eq_true_eq]

theorem toNat_noBorrowFlag (a b : Byte) : (noBorrowFlag a b).toNat = if a.toNat ≥ b.toNat then 1 else 0 := by
  simp only [noBorrowFlag, toNat_flagByte, decide_eq_true_eq]

/-- The difference of two bytes is the difference of their values modulo 256. -/
theorem toNat_sub_byte (a b : Byte) : ((a - b).toNat : Int) = (a.toNat - b.toNat : Int) % 256 := by
  have hb := b.isLt
  rw [BitVec.toNat_sub]
  omega

/-- Settles O22: the sum as a byte, then the carry. -/
theorem addWritesSumThenCarry : Obligations.AddWritesSumThenCarry :=
  fun s x y => ⟨_, _, _, rfl, s.writesRegThenVf_setResultThenFlag x _ _, BitVec.toNat_add _ _,
    toNat_carryFlag (s.reg x) (s.reg y)⟩

/-- Settles O23: the difference as a byte, then whether nothing was borrowed. -/
theorem subtractionsWriteDifferenceThenNoBorrow : Obligations.SubtractionsWriteDifferenceThenNoBorrow :=
  fun s x _ =>
    ⟨⟨_, _, _, rfl, s.writesRegThenVf_setResultThenFlag x _ _, toNat_sub_byte _ _, toNat_noBorrowFlag _ _⟩,
      ⟨_, _, _, rfl, s.writesRegThenVf_setResultThenFlag x _ _, toNat_sub_byte _ _, toNat_noBorrowFlag _ _⟩⟩

theorem toNat_shiftedOutLow (a : Byte) : (shiftedOutLow a).toNat = a.toNat % 2 := by
  simp only [shiftedOutLow, toNat_flagByte, BitVec.getLsbD, Nat.testBit_zero, decide_eq_true_eq]
  split <;> omega

theorem toNat_shiftedOutHigh (a : Byte) : (shiftedOutHigh a).toNat = a.toNat / 128 := by
  have ha := a.isLt
  simp only [shiftedOutHigh, toNat_flagByte, BitVec.getLsbD, Nat.testBit_eq_decide_div_mod_eq, decide_eq_true_eq]
  split <;> omega

theorem toNat_shiftRight_one (a : Byte) : (a >>> 1).toNat = a.toNat / 2 := by
  rw [BitVec.toNat_ushiftRight, Nat.shiftRight_eq_div_pow]

theorem toNat_shiftLeft_one (a : Byte) : (a <<< 1).toNat = a.toNat * 2 % 256 := by
  rw [BitVec.toNat_shiftLeft, Nat.shiftLeft_eq]

/-- Settles O24: half or twice the value as a byte, then the bit shifted out; neither meaning mentions `y`. -/
theorem shiftsWriteResultThenBitOut : Obligations.ShiftsWriteResultThenBitOut :=
  fun s x _ =>
    ⟨⟨_, _, _, rfl, s.writesRegThenVf_setResultThenFlag x _ _, toNat_shiftRight_one _, toNat_shiftedOutLow _⟩,
      ⟨_, _, _, rfl, s.writesRegThenVf_setResultThenFlag x _ _, toNat_shiftLeft_one _, toNat_shiftedOutHigh _⟩,
      fun _ => ⟨rfl, rfl⟩⟩

/-- Settles O25: the draw of the counter's number, masked. -/
theorem randomByteIsMasked : Obligations.RandomByteIsMasked :=
  fun s x kk => ⟨_, exec_rnd x kk s, rfl, fun z => s.reg_setReg x z _⟩

/-! ## ADD I (spec/42_index_memory.md R171) -/

/-- Settles O28, by the two sides of the check of the sum. -/
theorem addToIndexNeverWraps : Obligations.AddToIndexNeverWraps := by
  intro s x
  refine ⟨fun h => ⟨_, ?sum, exec_of_not_raises (if_neg (Nat.not_lt_of_le h))⟩,
    fun h => exec_of_raises (f := ⟨.addressOutOfRange, some _⟩) (if_pos h)⟩
  case sum =>
    rw [BitVec.toNat_ofNat]
    omega

end Sys2Proof.Machine
end

section
/-! The keypad instructions (spec/44_keypad_timers.md R210, R211, R213). -/

namespace Sys2Proof.Machine

/-! ## SKP and SKNP -/

theorem State.slotFatal_of_key {s : State} {x : Reg} {k : Key} (h : (s.reg x).toNat = k.val) :
    s.slotFatal x = none := if_pos (h ▸ k.isLt)

theorem State.slotFatal_of_noKey {s : State} {x : Reg} (h : 15 < (s.reg x).toNat) :
    s.slotFatal x = some ⟨.addressOutOfRange, some (s.reg x).toNat⟩ := if_neg (Nat.not_lt_of_le h)

theorem State.slotDown_of_key {s : State} {x : Reg} {k : Key} (h : (s.reg x).toNat = k.val) :
    s.slotDown x = s.keyDown k := by
  rw [State.slotDown, h, Fin.ofNat_eq_cast, Fin.cast_val_eq_self]

theorem exec_skp_of_key {s : State} {x : Reg} {k : Key} (h : (s.reg x).toNat = k.val) :
    exec (.skp x) s = .next { s with pc := if s.keyDown k then s.pc + 2#16 else s.pc } := by
  rw [exec_of_not_raises (i := .skp x) (State.slotFatal_of_key h), effect, State.slotDown_of_key h]
  cases s.keyDown k <;> rfl

theorem exec_sknp_of_key {s : State} {x : Reg} {k : Key} (h : (s.reg x).toNat = k.val) :
    exec (.sknp x) s = .next { s with pc := if s.keyDown k then s.pc else s.pc + 2#16 } := by
  rw [exec_of_not_raises (i := .sknp x) (State.slotFatal_of_key h), effect, State.slotDown_of_key h]
  cases s.keyDown k <;> rfl

/-- Settles O39: V[x] names a slot, which decides the skip, or it is refused. -/
theorem keySkipsTestTheNamedSlot : Obligations.KeySkipsTestTheNamedSlot :=
  fun _ x => ⟨fun _ h => ⟨exec_skp_of_key h, exec_sknp_of_key h⟩,
    fun h => ⟨exec_of_raises (i := .skp x) (State.slotFatal_of_noKey h),
      exec_of_raises (i := .sknp x) (State.slotFatal_of_noKey h)⟩⟩

/-! ## LD Vx, K -/

theorem exec_ldVxK_none {s : State} (x : Reg) (h : ∀ k, s.keyDown k = false) :
    exec (.ldVxK x) s = .next { s with pc := s.pc - 2#16 } := by
  rw [exec, execLdVxK, (keyPick_eq_none s.keys).2 h]
  rfl

/-- With a key down the wait stores the number of one that is. -/
theorem exists_exec_ldVxK {s : State} (x : Reg) {k : Key} (h : s.keyDown k = true) :
    ∃ p, s.keyDown p = true ∧ exec (.ldVxK x) s = .next (s.setReg x (BitVec.ofNat 8 p.val)) := by
  cases hp : keyPick s.keys with
  | none => exact absurd h (by simp [State.keyDown, (keyPick_eq_none s.keys).1 hp k])
  | some p =>
    refine ⟨p, keyPick_pressed hp, ?_⟩
    rw [exec, execLdVxK, hp]

/-- Settles O41: KEY_PICK answers none exactly when no key is down, and else a key that is down. -/
theorem keyWaitRewindsOrStoresAPressedKey : Obligations.KeyWaitRewindsOrStoresAPressedKey := by
  intro s x
  refine ⟨exec_ldVxK_none x, fun k hk => ?some, fun k hk hone => ?one⟩
  case some =>
    obtain ⟨p, hp, he⟩ := exists_exec_ldVxK x hk
    exact ⟨_, p, he, hp, s.writesReg_setReg x _⟩
  case one =>
    obtain ⟨p, hp, he⟩ := exists_exec_ldVxK x hk
    rw [hone p hp] at he
    exact ⟨_, he, s.writesReg_setReg x _⟩

/-- One step of the wait: the pc is back at the instruction. -/
theorem step_keyWait {s : State} {x : Reg} (hrun : s.halt = .running) (hpc : s.pc.toNat + 1 ≤ 0xFFF)
    (hd : decode s.fetchWord = .ok (.ldVxK x)) (hk : ∀ k, s.keyDown k = false) :
    step s = .next { s with cur := s.fetchWord } := by
  rw [step_of_decoded hrun (s.canFetch_iff.2 (by omega)) hd, exec_ldVxK_none (s := s.fetched) x hk, State.fetched_pc,
    BitVec.add_sub_cancel]
  rfl

/-- Settles O42, by induction on the number of steps: the state a step leaves waits as the one before it did. -/
theorem keyWaitRepeatsWithoutAKey : Obligations.KeyWaitRepeatsWithoutAKey := by
  intro s x n
  induction n generalizing s with
  | zero =>
    intro hrun hpc hd hk
    rw [core_run_succ (step_keyWait hrun hpc hd hk)]
    rfl
  | succ n ih =>
    intro hrun hpc hd hk
    rw [core_run_succ (step_keyWait hrun hpc hd hk)]
    exact ih { s with cur := s.fetchWord } hrun hpc hd hk

end Sys2Proof.Machine
end

section
/-! The host interface of a halted Machine, refused Resets, and the output ports (spec/60_exceptions.md R231, R236,
R243, R259; spec/70_reset_and_hazards.md R270, R272). -/

namespace Sys2Proof.Machine

/-- Settles O9: no host action but Reset names the halt state, and Reset has two cases, by the image's length. -/
theorem haltedMachineWaitsForReset : Obligations.HaltedMachineWaitsForReset := by
  intro font s r h
  refine ⟨step_of_halted h, fun a ha => ?other, fun image hlen => ?fits, fun image hlen => ?long⟩
  case other =>
    cases a with
    | reset image => exact absurd rfl (ha image)
    | setKeys | tick | readDisplay | readTimers | readState => exact h
  case fits => rw [hostAct_reset_of_fits font s hlen, State.afterReset_halt]
  case long => rw [hostAct_reset_of_long font s hlen]

/-- Settles O47: the refused Reset's answer, whose cause has the code 1. -/
theorem tooLongAnImageIsRefused : Obligations.TooLongAnImageIsRefused := by
  intro font image s h
  rw [hostAct_reset_of_long font s h]
  exact ⟨rfl, rfl, rfl⟩

/-- Settles O48: with the default FONT and no image Reset lists no byte. -/
theorem resetStateIsResetWithTheEmptyImage : Obligations.ResetStateIsResetWithTheEmptyImage := by
  intro s
  rw [hostAct_reset_of_fits defaultFont s (Nat.zero_le _), State.afterReset, resetMemory_default]
  rfl

/-! ## The ports -/

theorem Platform.ports_running {p : Platform} (h : p.machine.halt = .running) :
    p.ports = ⟨p.loadError, p.machine.fb, p.machine.dt, p.machine.st, false, 0, none, none, none⟩ := by
  rw [Platform.ports, h]

theorem Platform.ports_halted {p : Platform} {r : FatalRecord} (h : p.machine.halt = .halted r) :
    p.ports = ⟨p.loadError, p.machine.fb, p.machine.dt, p.machine.st, true, (Cause.fatal r.kind).code, r.word,
      some r.fpc, r.addr⟩ := by
  rw [Platform.ports, h]

/-- What the ports show whether the Machine runs or not. -/
theorem Platform.ports_always (p : Platform) : p.ports.loadError = p.loadError ∧ p.ports.fb = p.machine.fb ∧
    p.ports.dt = p.machine.dt ∧ p.ports.st = p.machine.st := by
  cases h : p.machine.halt with
  | running =>
    rw [Platform.ports_running h]
    exact ⟨rfl, rfl, rfl, rfl⟩
  | halted r =>
    rw [Platform.ports_halted h]
    exact ⟨rfl, rfl, rfl, rfl⟩

theorem Platform.ports_loadError (p : Platform) : p.ports.loadError = p.loadError := p.ports_always.1

theorem Platform.loadError_act_reset (font : Font) (image : List Byte) (p : Platform) :
    (p.act font (.reset image)).1.loadError = true ↔ 0xE00 < image.length := by
  change (!imageFits image) = true ↔ _
  rw [Bool.not_eq_true', ← Bool.not_eq_true, imageFits_iff, Nat.not_le]

theorem Platform.loadError_act_other (font : Font) {a : HostAction} (h : ∀ image, a ≠ .reset image) (p : Platform) :
    (p.act font a).1.loadError = p.loadError := by
  cases a with
  | reset image => exact absurd rfl (h image)
  | setKeys | tick | readDisplay | readTimers | readState => rfl

theorem loadError_move_step {font : Font} {p q : Platform} (h : move font .step p = .next q) :
    q.loadError = p.loadError := by
  obtain ⟨t, ht⟩ := everyStepHasANextState p.machine
  cases (move_step ht).symm.trans h
  rfl

/-- Settles O52: the ports by the halt state, and `load_error` by the event. -/
theorem portsShowTheRecordAndTheLastReset : Obligations.PortsShowTheRecordAndTheLastReset := by
  intro font p q
  simp only [Platform.ports_loadError]
  refine ⟨p.ports_always.2, fun h => ?running, fun r h => ?halted,
    fun image => Platform.loadError_act_reset font image p, fun a ha => Platform.loadError_act_other font ha p,
    loadError_move_step⟩
  case running =>
    rw [Platform.ports_running h]
    exact ⟨rfl, rfl⟩
  case halted =>
    rw [Platform.ports_halted h]
    refine ⟨rfl, rfl, rfl, rfl, ?_, ?_, ?_, ?_⟩ <;>
    · intro hk
      simp only [hk, Cause.code]

end Sys2Proof.Machine
end
